-- ==== Sys2Proof/Word.lean ====
section
/-! DEFINITION. The widths the spec gives (00_scope.md R2, R3): 24-bit registers, addresses and
storage units, 5-bit register and condition-bit fields, the 10-bit and 24-bit literals.
Bit 0 of every one of them is the leftmost, high-order bit (00_scope.md R4). -/

namespace Sys2Proof

/-- A 24-bit register value: an X register, the condition register, S9, S10, S11 (R2, R17). -/
abbrev Word24 := BitVec 24

/-- A 24-bit storage address, in 24-bit units (R3 ALEN, R36). -/
abbrev Addr := BitVec 24

/-- The addressable unit of storage (R36, R42). -/
abbrev Unit24 := BitVec 24

/-- A 5-bit field i, j or k: the number of an X register or of a condition bit (R55). -/
abbrev Field5 := BitVec 5

/-- The file of the 32 index registers (R10). -/
abbrev XFile := Vector Word24 32

/-- A storage key (R38), an opaque name: nothing but equality is ever used of it (log 2). -/
abbrev Key := Nat

end Sys2Proof
end

