-- ==== Sys2Proof/Config.lean ====
section
/-! DEFINITION. The configuration of the model: the parameters that 00_scope.md R3 marks OPEN, as
types of plain data (State holds one value of each in its field inst, so that a statement about every
state is a statement about every parameter; log 4), and the free values, as opaque constants without
a body. -/

namespace Sys2Proof

/-! ### The mode (10_state.md R23) -/

/-- Supervisory or problem mode. -/
inductive Privilege where
  | supervisory | problem
deriving DecidableEq, Repr, Inhabited

/-- Interruptions held off, or not. -/
inductive Enabling where
  | disabled | enabled
deriving DecidableEq, Repr, Inhabited

/-- The overlapped way of working, on or off; carried as data only (R166). -/
inductive Concurrency where
  | concurrent | notConcurrent
deriving DecidableEq, Repr, Inhabited

/-- The three two-valued parts of the mode. -/
structure Mode where
  sup : Privilege
  dis : Enabling
  conc : Concurrency
deriving DecidableEq, Repr, Inhabited

/-- Which of S11 bits 0, 1, 2 holds which part: the letters are those of bits 0, 1, 2 in turn
(s supervisory/problem, d disabled/enabled, c concurrent/not). -/
inductive ModeOrder where
  | sdc | scd | dsc | dcs | csd | cds
deriving DecidableEq, Repr, Inhabited

/-- The parameter ModeEnc of R3 and R23: assignment and polarity of the mode bits. -/
structure ModeEnc where
  order : ModeOrder
  /-- the bit value that stands for supervisory -/
  supervisoryIs : Bool
  /-- the bit value that stands for disabled -/
  disabledIs : Bool
  /-- the bit value that stands for concurrent -/
  concurrentIs : Bool
deriving DecidableEq, Repr, Inhabited

/-- The spec's default assignment and polarity (R23). DESIGN CHOICE of the spec, log 9. -/
def ModeEnc.default : ModeEnc :=
  { order := .sdc, supervisoryIs := true, disabledIs := true, concurrentIs := true }

/-! ### The internal branch-skip-MPC state (10_state.md R25 to R30) -/

/-- Which instruction made the outstanding successful branch (R26). -/
inductive BranchKind where
  | br | ivib | svc | svr | ir
deriving DecidableEq, Repr, Inhabited

/-- The branch state (R26). -/
inductive BranchState where
  | none
  | outstanding (kind : BranchKind)
deriving DecidableEq, Repr, Inhabited

/-- The skip state (R28). -/
inductive SkipState where
  | skipping | notSkipping
deriving DecidableEq, Repr, Inhabited

/-- Every branch state. -/
def BranchState.all : List BranchState :=
  [.none, .outstanding .br, .outstanding .ivib, .outstanding .svc, .outstanding .svr, .outstanding .ir]

/-- Both skip states. -/
def SkipState.all : List SkipState := [.skipping, .notSkipping]

/-- The MPC carry state (R29), a name of which only equality is ever used. Which values exist, and which
of them is "no carry", are the parameters `carries` and `noCarry` of the installation (R3, log 11). -/
abbrev Carry := Nat

/-- The internal branch-skip-MPC state (R25). -/
structure Bsm where
  branch : BranchState
  skip : SkipState
  carry : Carry
deriving DecidableEq, Repr, Inhabited

/-- The parameters encBSM and decBSM of R3 and R30, each a total function written as a finite table
with a value for everything the table does not list. -/
structure BsmCode where
  decTable : List (BitVec 7 × Bsm)
  decOther : Bsm
  encTable : List (Bsm × BitVec 7)
  encOther : BitVec 7
deriving DecidableEq, Repr, Inhabited

/-- The carry values at reset, 0 the one that is "no carry"; DESIGN CHOICE, log 11. -/
def resetCarries : List Carry := [0, 1, 2, 3, 4, 5, 6, 7]

/-- The rows of the reset table: three bits of branch state, one of skip, three of carry.
DESIGN CHOICE, log 10: the source does not give the layout. -/
def BsmCode.resetRows : List (BitVec 7 × Bsm) :=
  [(BitVec.ofNat 3 0, BranchState.none), (1, .outstanding .br), (2, .outstanding .ivib),
    (3, .outstanding .svc), (4, .outstanding .svr), (5, .outstanding .ir)].flatMap fun b =>
  [(BitVec.ofNat 1 0, SkipState.notSkipping), (1, .skipping)].flatMap fun k =>
  resetCarries.map fun n =>
  (b.1 ++ k.1 ++ BitVec.ofNat 3 n, { branch := b.2, skip := k.2, carry := n })

/-- One code of the branch-skip-MPC state; the value of State.reset only (log 10). -/
def BsmCode.resetCode : BsmCode :=
  { decTable := BsmCode.resetRows
    decOther := { branch := .none, skip := .notSkipping, carry := 0 }
    encTable := BsmCode.resetRows.map fun r => (r.2, r.1)
    encOther := 0 }

/-! ### Operation codes (30_encoding.md R62) -/

/-- The 26 mnemonics that have an operation code: every row of R62 but IC. -/
inductive Op where
  | band | btaf | bfaf | bor | btof | bfof | beq | bxor | bu
  | exit | exitl
  | skand | sktaf | skfaf | skor | sktof | skfof | skeq | skxor
  | ivib | pause | pi | svc | svr | ir | scan
deriving DecidableEq, Repr, Inhabited

/-- The parameter OPC of R3: mnemonic to 8-bit operation code, row by row. -/
abbrev Opc := List (Op × BitVec 8)

/-! ### The installation -/

/-- The parameters of R3 that the spec takes as arguments of the model. No step writes them. -/
structure Installation where
  opc : Opc
  /-- LONG_ALIGNED: a long instruction must start at an even address (R43) -/
  longAligned : Bool
  normalKeySupervisory : Key
  normalKeyProblem : Key
  alternateKeySupervisory : Key
  alternateKeyProblem : Key
  modeEnc : ModeEnc
  bsmCode : BsmCode
  /-- Carry: the values of the MPC carry state that exist (R29) -/
  carries : List Carry
  /-- noCarry: the one value the source names (R29) -/
  noCarry : Carry
  /-- SCAN_UNITS, at most 512 (R141) -/
  scanUnits : Fin 513
deriving DecidableEq, Repr, Inhabited

/-! ### Exception bits, buffers, and the state a SCAN loads -/

/-- The four exception bits the source names (10_state.md R31). MI and MA are two (log 32). -/
structure ExceptionBits where
  mi : Bool
  ma : Bool
  pi : Bool
  pv : Bool
deriving DecidableEq, Repr, Inhabited

/-- One triple of the instruction buffers IB (R32, R47). -/
structure Buffered where
  key : Key
  addr : Addr
  unit : Unit24
deriving DecidableEq, Repr, Inhabited

/-- Everything 10_state.md gives the processor itself (storage apart): what MLX may look at (R98) and
what a SCAN replaces (R144). -/
structure MachineImage where
  x : XFile
  loc : Addr
  c : Word24
  s9 : Word24
  s10 : Word24
  s11 : Word24
  bstate : BranchState
  ieba : Addr
  skip : SkipState
  carry : Carry
  exc : ExceptionBits
  ib : List Buffered
deriving DecidableEq, Repr, Inhabited

/-! ### Free values: opaque, without a body -/

/-- The parameter MLX of R3: the X registers after MLX i, j, k at the location and in the state of the
image. It may change X registers only (R98). Log 28. -/
opaque Config.mlx : Field5 → Field5 → Field5 → MachineImage → XFile

/-- The parameter ScanLayout of R3: the machine state that a block of scan-in data specifies (R144).
Log 29. -/
opaque Config.scanLayout : List Unit24 → MachineImage

/-- What IC puts in S10 when no branch is outstanding (R27, R134): a draw. Log 16. -/
opaque Config.freeS10 : Nat → Word24

/-- What the IC that follows a missing address puts in S9 (R94, D19): a draw. Logs 17 and 18. -/
opaque Config.freeS9 : Nat → Word24

/-- Whether PV is set by an SVR or IR in problem mode that an outstanding branch suppresses
(R130, R138, D16): a draw. Log 27. -/
opaque Config.freePv : Nat → Bool

end Sys2Proof
end

