-- ==== Sys2Proof/Syntax.lean ====
section
/-! DEFINITION. The instructions: one constructor per row of spec/opcode_table.json.
A stored instruction is the decoded term of 30_encoding.md R71: its skip flag s, its fields i, j, k
and, in the long format, its literal h. Fields an instruction does not use are kept in the term and no
meaning reads them (R71, R64). IC has no fields and no encoding (R54, R66, R132). -/

namespace Sys2Proof

/-- The instructions of the MPM in scope. -/
inductive Instr where
  | band (s : Bool) (i j k : Field5) (h : BitVec 24)
  | btaf (s : Bool) (i j k : Field5) (h : BitVec 24)
  | bfaf (s : Bool) (i j k : Field5) (h : BitVec 24)
  | bor (s : Bool) (i j k : Field5) (h : BitVec 24)
  | btof (s : Bool) (i j k : Field5) (h : BitVec 24)
  | bfof (s : Bool) (i j k : Field5) (h : BitVec 24)
  | beq (s : Bool) (i j k : Field5) (h : BitVec 24)
  | bxor (s : Bool) (i j k : Field5) (h : BitVec 24)
  | bu (s : Bool) (i j k : Field5)
  | exit (s : Bool) (i j k : Field5)
  | exitl (s : Bool) (i j k : Field5)
  | skand (s : Bool) (i j k : Field5)
  | sktaf (s : Bool) (i j k : Field5)
  | skfaf (s : Bool) (i j k : Field5)
  | skor (s : Bool) (i j k : Field5)
  | sktof (s : Bool) (i j k : Field5)
  | skfof (s : Bool) (i j k : Field5)
  | skeq (s : Bool) (i j k : Field5)
  | skxor (s : Bool) (i j k : Field5)
  | ivib (s : Bool) (i j k : Field5) (h : BitVec 24)
  | pause (s : Bool) (i j k : Field5)
  | pi (s : Bool) (i j k : Field5)
  | svc (s : Bool) (i j k : Field5)
  | svr (s : Bool) (i j k : Field5) (h : BitVec 24)
  | ir (s : Bool) (i j k : Field5)
  | scan (s : Bool) (i j k : Field5) (h : BitVec 24)
  | ic
deriving DecidableEq, Repr

end Sys2Proof
end

