-- ==== Sys2Proof/Decode.lean ====
section
/-! DEFINITION. Decoding and encoding over 24-bit units (30_encoding.md R53 to R72), for any
operation-code map OPC, and the spec's provisional map. Decoding is total; what it rejects it rejects
by name. -/

namespace Sys2Proof

/-- Bits a to a+n-1 of a unit, bit 0 leftmost (00_scope.md R4, R5). -/
def unitBits (u : Unit24) (a n : Nat) : BitVec n := u.extractLsb' (24 - (a + n)) n

/-! ### The operation-code map -/

/-- The 26 programmable mnemonics, in the order of R62. -/
def Op.all : List Op :=
  [.band, .btaf, .bfaf, .bor, .btof, .bfof, .beq, .bxor, .bu, .exit, .exitl,
   .skand, .sktaf, .skfaf, .skor, .sktof, .skfof, .skeq, .skxor,
   .ivib, .pause, .pi, .svc, .svr, .ir, .scan]

/-- The rows of R62 for the branches and the exits. -/
def Opc.provisionalBranch : List (Op × BitVec 8) :=
  [(.band, 0x10#8), (.btaf, 0x11#8), (.bfaf, 0x12#8), (.bor, 0x13#8), (.btof, 0x14#8), (.bfof, 0x15#8),
   (.beq, 0x16#8), (.bxor, 0x17#8), (.bu, 0x18#8), (.exit, 0x20#8), (.exitl, 0x21#8)]

/-- The rows of R62 for the skips. -/
def Opc.provisionalSkip : List (Op × BitVec 8) :=
  [(.skand, 0x30#8), (.sktaf, 0x31#8), (.skfaf, 0x32#8), (.skor, 0x33#8), (.sktof, 0x34#8),
   (.skfof, 0x35#8), (.skeq, 0x36#8), (.skxor, 0x37#8)]

/-- The rows of R62 for the special purpose branch instructions. -/
def Opc.provisionalSpecial : List (Op × BitVec 8) :=
  [(.ivib, 0x40#8), (.pause, 0x41#8), (.pi, 0x42#8), (.svc, 0x43#8), (.svr, 0x44#8), (.ir, 0x45#8),
   (.scan, 0x46#8)]

/-- The PROVISIONAL operation codes of R62: the spec's own invention, not the MPM's (log 5). -/
def Opc.provisional : Opc :=
  Opc.provisionalBranch ++ (Opc.provisionalSkip ++ Opc.provisionalSpecial)

/-- The operation code of a mnemonic. -/
def Opc.code (t : Opc) (op : Op) : BitVec 8 := (t.lookup op).getD 0

/-- The mnemonic of an operation code, if the map gives it one (R63, R65). -/
def Opc.opOf (t : Opc) (c : BitVec 8) : Option Op := Op.all.find? fun op => t.code op == c

/-- The one law of OPC (R62): it is injective on the programmable mnemonics. -/
abbrev Opc.Injective (t : Opc) : Prop := (Op.all.map t.code).Nodup

/-- The format of a mnemonic (R54): long, two units, or short, one. -/
def Op.isLong : Op → Bool
  | .band | .btaf | .bfaf | .bor | .btof | .bfof | .beq | .bxor => true
  | .ivib | .svr | .scan => true
  | .bu | .exit | .exitl | .skand | .sktaf | .skfaf | .skor | .sktof | .skfof | .skeq | .skxor => false
  | .pause | .pi | .svc | .ir => false

/-! ### Decoding (R71) -/

/-- Why a list of units is no instruction. -/
inductive DecodeError where
  /-- there is no unit at all -/
  | noUnit
  /-- bits 1 to 8 are not an operation code of the map (R65) -/
  | unknownOperationCode (op : BitVec 8)
  /-- a long instruction's literal unit is not there -/
  | noSecondUnit (op : Op)
deriving DecidableEq, Repr

/-- Bits 1 to 8 of the first unit (R57). -/
def operationField (u0 : Unit24) : BitVec 8 := unitBits u0 1 8

/-- The length in units that the first unit tells (R63). -/
def lengthOf (t : Opc) (u0 : Unit24) : Option Nat :=
  (t.opOf (operationField u0)).map fun op => if op.isLong then 2 else 1

/-- The term of a mnemonic and its fields (R71). -/
def Op.term (op : Op) (s : Bool) (i j k : Field5) (h : BitVec 24) : Instr :=
  match op with
  | .band => .band s i j k h
  | .btaf => .btaf s i j k h
  | .bfaf => .bfaf s i j k h
  | .bor => .bor s i j k h
  | .btof => .btof s i j k h
  | .bfof => .bfof s i j k h
  | .beq => .beq s i j k h
  | .bxor => .bxor s i j k h
  | .bu => .bu s i j k
  | .exit => .exit s i j k
  | .exitl => .exitl s i j k
  | .skand => .skand s i j k
  | .sktaf => .sktaf s i j k
  | .skfaf => .skfaf s i j k
  | .skor => .skor s i j k
  | .sktof => .sktof s i j k
  | .skfof => .skfof s i j k
  | .skeq => .skeq s i j k
  | .skxor => .skxor s i j k
  | .ivib => .ivib s i j k h
  | .pause => .pause s i j k
  | .pi => .pi s i j k
  | .svc => .svc s i j k
  | .svr => .svr s i j k h
  | .ir => .ir s i j k
  | .scan => .scan s i j k h

/-- The term of an operation code's mnemonic, with the fields of the first unit (R55) and the literal. -/
def termOf (op : Op) (u0 : Unit24) (h : BitVec 24) : Instr :=
  op.term (u0.getMsbD 0) (unitBits u0 9 5) (unitBits u0 14 5) (unitBits u0 19 5) h

/-- Decode the instruction at the head of a list of units; answer it with the units that follow it. -/
def decode (t : Opc) (us : List Unit24) : Except DecodeError (Instr × List Unit24) :=
  match us with
  | [] => .error .noUnit
  | u0 :: rest =>
    match t.opOf (operationField u0) with
    | none => .error (.unknownOperationCode (operationField u0))
    | some op =>
      if op.isLong then
        match rest with
        | [] => .error (.noSecondUnit op)
        | u1 :: rest' => .ok (termOf op u0 u1, rest')
      else .ok (termOf op u0 0, rest)

/-- What the host's table word decodes to: bits 23..0 of w are the first unit, bits 47..24 the second
(each with bit 0 of the spec as its most significant bit). -/
def decodeTableWord (nbits w : Nat) : Option Instr :=
  match decode Opc.provisional [BitVec.ofNat 24 (w % 2 ^ nbits), BitVec.ofNat 24 (w % 2 ^ nbits / 2 ^ 24)] with
  | .ok (i, _) => some i
  | .error _ => none

/-! ### The 7-bit code of the branch-skip-MPC state (10_state.md R30) -/

/-- encBSM. -/
def encodeBsm (t : BsmCode) (b : Bsm) : BitVec 7 := (t.encTable.lookup b).getD t.encOther

/-- decBSM: total. -/
def decodeBsm (t : BsmCode) (v : BitVec 7) : Bsm := (t.decTable.lookup v).getD t.decOther

/-! ### Encoding (R72) -/

/-- The first unit: s, op, i, j, k from left to right (R55, R72). -/
def firstUnit (t : Opc) (op : Op) (s : Bool) (i j k : Field5) : Unit24 :=
  BitVec.ofBool s ++ t.code op ++ i ++ j ++ k

/-- The short format (R53). -/
def shortForm (t : Opc) (op : Op) (s : Bool) (i j k : Field5) : List Unit24 :=
  [firstUnit t op s i j k]

/-- The long format (R53): the literal is the second unit, at the higher address (R42). -/
def longForm (t : Opc) (op : Op) (s : Bool) (i j k : Field5) (h : BitVec 24) : List Unit24 :=
  [firstUnit t op s i j k, h]

/-- The units of an instruction. IC has none (R66). -/
def encode (t : Opc) : Instr → List Unit24
  | .band s i j k h => longForm t .band s i j k h
  | .btaf s i j k h => longForm t .btaf s i j k h
  | .bfaf s i j k h => longForm t .bfaf s i j k h
  | .bor s i j k h => longForm t .bor s i j k h
  | .btof s i j k h => longForm t .btof s i j k h
  | .bfof s i j k h => longForm t .bfof s i j k h
  | .beq s i j k h => longForm t .beq s i j k h
  | .bxor s i j k h => longForm t .bxor s i j k h
  | .bu s i j k => shortForm t .bu s i j k
  | .exit s i j k => shortForm t .exit s i j k
  | .exitl s i j k => shortForm t .exitl s i j k
  | .skand s i j k => shortForm t .skand s i j k
  | .sktaf s i j k => shortForm t .sktaf s i j k
  | .skfaf s i j k => shortForm t .skfaf s i j k
  | .skor s i j k => shortForm t .skor s i j k
  | .sktof s i j k => shortForm t .sktof s i j k
  | .skfof s i j k => shortForm t .skfof s i j k
  | .skeq s i j k => shortForm t .skeq s i j k
  | .skxor s i j k => shortForm t .skxor s i j k
  | .ivib s i j k h => longForm t .ivib s i j k h
  | .pause s i j k => shortForm t .pause s i j k
  | .pi s i j k => shortForm t .pi s i j k
  | .svc s i j k => shortForm t .svc s i j k
  | .svr s i j k h => longForm t .svr s i j k h
  | .ir s i j k => shortForm t .ir s i j k
  | .scan s i j k h => longForm t .scan s i j k h
  | .ic => []

end Sys2Proof
end

