-- ==== Sys2Proof/WellFormed.lean ====
section
/-! DEFINITION. Which terms are instructions a program may hold, and where they may stand. The field
widths are in the types of Instr; what is left to check is that IC is no programmed instruction
(30_encoding.md R66) and the placing rules of 10_state.md R14 and 20_memory.md R43. -/

namespace Sys2Proof

/-- IC "is not available for use as a programmed instruction" (R66, R132); every other term is. -/
def Instr.wellFormed : Instr → Bool
  | .ic => false
  | .band .. | .btaf .. | .bfaf .. | .bor .. | .btof .. | .bfof .. | .beq .. | .bxor .. => true
  | .bu .. | .exit .. | .exitl .. => true
  | .skand .. | .sktaf .. | .skfaf .. | .skor .. | .sktof .. | .skfof .. | .skeq .. | .skxor .. => true
  | .ivib .. | .pause .. | .pi .. | .svc .. | .svr .. | .ir .. | .scan .. => true

/-- LEN: the units the instruction occupies (R54); IC occupies none. -/
def Instr.units : Instr → Nat
  | .band .. | .btaf .. | .bfaf .. | .bor .. | .btof .. | .bfof .. | .beq .. | .bxor .. => 2
  | .ivib .. | .svr .. | .scan .. => 2
  | .bu .. | .exit .. | .exitl .. => 1
  | .skand .. | .sktaf .. | .skfaf .. | .skor .. | .sktof .. | .skfof .. | .skeq .. | .skxor .. => 1
  | .pause .. | .pi .. | .svc .. | .ir .. => 1
  | .ic => 0

/-- Whether an instruction of that many units may start at an address, LONG_ALIGNED being given: a long
one not at an odd address under LONG_ALIGNED (R43), and no unit of it past 2^24 - 1 (R14). -/
def placeable (longAligned : Bool) (units : Nat) (a : Addr) : Bool :=
  (!(longAligned && units == 2 && a.toNat % 2 == 1)) && decide (a.toNat + units ≤ 2 ^ 24)

/-- The round-trip law decBSM(encBSM(s)) = s (10_state.md R30, D12), for every branch state, skip state and
carry value that exists. -/
abbrev Installation.BsmRoundTrip (inst : Installation) : Prop :=
  ∀ b ∈ BranchState.all, ∀ k ∈ SkipState.all, ∀ c ∈ inst.carries,
    decodeBsm inst.bsmCode (encodeBsm inst.bsmCode { branch := b, skip := k, carry := c }) =
      { branch := b, skip := k, carry := c }

/-- "No carry" exists, and every 7-bit value designates a state whose carry exists (R29, R30). -/
abbrev Installation.CarriesExist (inst : Installation) : Prop :=
  inst.noCarry ∈ inst.carries ∧ ∀ v : BitVec 7, (decodeBsm inst.bsmCode v).carry ∈ inst.carries

/-- The laws of the parameters of 00_scope.md R3: OPC is injective (R62), the 7-bit code has its round-trip
law, and the carry values exist. SCAN_UNITS is at most 512 by its type. -/
abbrev Installation.wellFormed (inst : Installation) : Prop :=
  inst.opc.Injective ∧ inst.BsmRoundTrip ∧ inst.CarriesExist

end Sys2Proof
end

