-- ==== Sys2Proof/Machine/State.lean ====
section
/-! DEFINITION. The machine's state (10_state.md), its reset value, and why a step can stop.
State is plain data and holds everything the spec gives the MPM; the fields of the model's own are
marked so (INVENTORY.md, '## State'). -/

namespace Sys2Proof.Machine

/-- One unit of storage under its location number (Memory.lean, `location`). -/
abbrev Cell := Nat × Unit24

/-- Storage: the units that exist, by location number. An address that is not listed is a missing
address (20_memory.md R39); it reads as no value (log 3). -/
abbrev Memory := List Cell

/-- What the unconstrained inputs bring at one step (the model's own, log 15). -/
structure Moment where
  /-- an outside source asks for an interruption (60_exceptions.md R154) -/
  asks : Bool
  /-- an interruption that can be taken is taken now, before the next instruction (R152) -/
  takeIc : Bool
  /-- exception bits that the configuration-supplied operation clears now (R148) -/
  clear : ExceptionBits
  /-- which matching triple of IB answers the fetch of the first unit, if any (20_memory.md R47) -/
  pick0 : Option Nat
  /-- the same for the second unit -/
  pick1 : Option Nat
  /-- the units of storage that are prefetched into IB after the fetch (R47) -/
  prefetch : List (Key × Addr)
deriving DecidableEq, Repr

structure State where
  /-- the index registers (R10) -/
  x : XFile
  /-- the location of the instruction being executed (R12) -/
  loc : Addr
  /-- the condition register, special register S0 (R15, R18) -/
  c : Word24
  /-- S9, the interruption return address register (R19) -/
  s9 : Word24
  /-- S10 (R20) -/
  s10 : Word24
  /-- S11, the machine state register (R21); its bits 0 to 2 are the mode (R22) -/
  s11 : Word24
  /-- the branch state (R26) -/
  bstate : BranchState
  /-- the internal effective branch address (R27) -/
  ieba : Addr
  /-- the skip state (R28) -/
  skip : SkipState
  /-- the MPC carry state (R29) -/
  carry : Carry
  /-- the exception bits (R31) -/
  exc : ExceptionBits
  /-- the instruction buffers (R32) -/
  ib : List Buffered
  /-- storage (20_memory.md R35) -/
  memory : Memory
  /-- an outside source asks for an interruption (60_exceptions.md R154) -/
  outsideAsks : Bool
  /-- the parameters of 00_scope.md R3; no step writes them (log 4) -/
  inst : Installation
  /-- MODEL'S OWN (log 24): the X register an outstanding IVIB or SVR formed its eba from (R131) -/
  ebaReg : Option Field5
  /-- MODEL'S OWN (log 24): the interrupted program's ebaReg, as S10 is its ieba -/
  savedEbaReg : Option Field5
  /-- MODEL'S OWN (log 24): that register, once it has been written since the interruption -/
  savedEbaWritten : Option Field5
  /-- MODEL'S OWN (log 15): the moments to come; a step consumes the first -/
  schedule : List Moment
  /-- MODEL'S OWN (log 16): the counter to which free values are applied; a step advances it -/
  tick : Nat
deriving DecidableEq, Repr

/-- Why the machine stops with a fault. The state it leaves is in the fault, so that "set the bit, then
fault" (60_exceptions.md R170) can be stated. -/
inductive Fault where
  /-- raised by the EXIT or EXITL at `exit` whose target is missing while the mode is disabled: MI is
  set in `left` and the source's continuation is not known (41_exit.md R94, log 17). SAFE. -/
  | missingTarget (exit : Addr) (left : State)
  /-- raised by the SCAN at `scan` whose block is missing while the mode is disabled: MA is set in
  `left` and nothing is loaded (43_special_branch.md R143, log 18). SAFE. -/
  | missingScanBlock (scan : Addr) (left : State)
deriving DecidableEq, Repr

/-- Why the model has no step (60_exceptions.md R170). Every one is SAFE. -/
inductive Refusal where
  /-- raised by exec for an instruction that has no meaning yet; SAFE -/
  | notModelled (mnemonic : String)
  /-- raised by the fetch: the operation code is not in the map (30_encoding.md R65); SAFE -/
  | unknownOperationCode (op : BitVec 8)
  /-- raised by the fetch: the unit there is missing (20_memory.md R41); SAFE -/
  | missingInstructionUnit (key : Key) (a : Addr)
  /-- raised by the fetch under LONG_ALIGNED: a long instruction at an odd address (R43); SAFE -/
  | oddLongInstruction (a : Addr)
  /-- raised by the fetch and by every sequential advance past 2^24 - 1 (10_state.md R14); SAFE -/
  | pastTopOfStorage
  /-- raised by IC (location 0) and by SVC at its EXIT (location 256) when the fixed location is
  missing (60_exceptions.md R149); SAFE -/
  | missingFixedLocation (a : Addr)
  /-- raised by PI in disabled mode (43_special_branch.md R122); SAFE -/
  | piWhileDisabled
  /-- raised by the EXIT of an SVR whose S11[3:9] designates an outstanding branch (R129); SAFE -/
  | svrRestoresOutstandingBranch
  /-- raised by PI and EXITL when they write the X register from which an outstanding IVIB or SVR formed
  its eba, and by the EXIT of an IR that would make an IVIB or SVR outstanding again whose register has
  been written since the interruption (R131); SAFE -/
  | ebaRegisterWritten (r : Field5)
deriving DecidableEq, Repr

/-- What executing an instruction, or one step, answers. -/
abbrev Result := Host.Outcome State Fault Refusal

/-- The parameters at reset: the spec's defaults where it prints one, else the model's choice
(logs 2, 4, 5, 9, 10, 11, 21, 29; DESIGN CHOICE). -/
def Installation.reset : Installation :=
  { opc := Opc.provisional
    longAligned := false
    normalKeySupervisory := 0
    normalKeyProblem := 0
    alternateKeySupervisory := 0
    alternateKeyProblem := 0
    modeEnc := ModeEnc.default
    bsmCode := BsmCode.resetCode
    carries := resetCarries
    noCarry := 0
    scanUnits := 512 }

/-- No exception bit set. -/
def noExceptions : ExceptionBits := { mi := false, ma := false, pi := false, pv := false }

/-- The machine right after reset. The spec gives no reset value of any state (10_state.md R34,
70_reset_and_hazards.md R171): bstate, skip, carry, the exception bits and IB are the launch premises
of R173, the rest is zero (log 13, DESIGN CHOICE). Storage lists nothing. -/
def State.reset : State :=
  { x := Vector.replicate 32 0
    loc := 0
    c := 0
    s9 := 0
    s10 := 0
    s11 := 0
    bstate := .none
    ieba := 0
    skip := .notSkipping
    carry := Installation.reset.noCarry
    exc := noExceptions
    ib := []
    memory := []
    outsideAsks := false
    inst := Installation.reset
    ebaReg := none
    savedEbaReg := none
    savedEbaWritten := none
    schedule := []
    tick := 0 }

end Sys2Proof.Machine
end

