-- ==== Sys2Proof/Machine/Flags.lean ====
section
/-! DEFINITION. The conditions: bits of the condition register, the eight condition functions
(40_branch_at_exit.md R73, R74), and the pending test of 60_exceptions.md R152. -/

namespace Sys2Proof.Machine

/-- The eight functions of two condition bits (R73). -/
inductive CondFn where
  | and | taf | faf | or | tof | fof | eq | xor
deriving DecidableEq, Repr

/-- The value of a condition function (R73). -/
def CondFn.eval : CondFn → Bool → Bool → Bool
  | .and, a, b => a && b
  | .taf, a, b => a && !b
  | .faf, a, b => !a && !b
  | .or, a, b => a || b
  | .tof, a, b => a || !b
  | .fof, a, b => !a || !b
  | .eq, a, b => a == b
  | .xor, a, b => a != b

/-- cbit(n): c[n] for n up to 23, and 0 for the non-existent bits 24 to 31 (R74). -/
def cbit (c : Word24) (n : Field5) : Bool := if n.toNat ≤ 23 then c.getMsbD n.toNat else false

/-- Whether the condition function of two selected bits of c is TRUE (R76, R105). -/
def State.condition (s : State) (f : CondFn) (i j : Field5) : Bool := f.eval (cbit s.c i) (cbit s.c j)

/-- Some exception bit is 1. -/
def excAny (e : ExceptionBits) : Bool := e.mi || e.ma || e.pi || e.pv

/-- pending of R152: an exception bit is set, or an outside source asks. -/
def State.pending (s : State) : Bool := excAny s.exc || s.outsideAsks

end Sys2Proof.Machine
end

