-- ==== Sys2Proof/Machine/Memory.lean ====
section
/-! DEFINITION. The operations over storage (20_memory.md R35 to R46). A storage reference is a pair
(key, address); its location number keeps the references apart, so that storage is a function of the
pair and nothing is assumed of two keys (R46). -/

namespace Sys2Proof.Machine

/-- The number under which storage lists the unit at (key, address). -/
def location (key : Key) (a : Addr) : Nat := key * 2 ^ 24 + a.toNat

/-- The canonical form: location numbers strictly rising. (An entry is a unit and an unlisted address
reads as no value, so no entry equals what an unlisted address reads as.) -/
abbrev Memory.wf (m : Memory) : Prop := (m.map Prod.fst).Pairwise (· < ·)

/-- What storage holds at a location number; none where the address is missing. -/
def Memory.read : Memory → Nat → Option Unit24
  | [], _ => none
  | (l, u) :: m, n => if l = n then some u else Memory.read m n

/-- Storage with the unit at a location number replaced, or brought into being. -/
def Memory.put : Memory → Nat → Unit24 → Memory
  | [], n, v => [(n, v)]
  | (l, u) :: m, n, v =>
    if n < l then (n, v) :: (l, u) :: m
    else if n = l then (n, v) :: m
    else (l, u) :: Memory.put m n v

/-- The n units from a location number on, lowest first, if every one is present. -/
def Memory.readUnits (m : Memory) (l : Nat) : Nat → Option (List Unit24)
  | 0 => some []
  | n + 1 =>
    match m.read l, Memory.readUnits m (l + 1) n with
    | some u, some us => some (u :: us)
    | _, _ => none

/-- MemRead(key, addr, n) (R40). -/
def Memory.memRead (m : Memory) (key : Key) (a : Addr) (n : Nat) : Option (List Unit24) :=
  if a.toNat + n ≤ 2 ^ 24 then m.readUnits (location key a) n else none

/-- The units of a list put at consecutive location numbers. -/
def Memory.putUnits (m : Memory) (l : Nat) : List Unit24 → Memory
  | [] => m
  | u :: us => (m.put l u).putUnits (l + 1) us

/-- MemWrite(key, addr, n, v): defined like MemRead (R40); no instruction in scope calls it (R37). -/
def Memory.memWrite (m : Memory) (key : Key) (a : Addr) (us : List Unit24) : Option Memory :=
  match m.memRead key a us.length with
  | some _ => some (m.putUnits (location key a) us)
  | none => none

/-- present(key, addr) (R39): storage lists the address. -/
def State.isPresent (s : State) (key : Key) (a : Addr) : Bool := (s.memory.read (location key a)).isSome

end Sys2Proof.Machine
end

