-- ==== Sys2Proof/Machine/Operands.lean ====
section
/-! DEFINITION. The operand forms: index registers, the literals (30_encoding.md R60, R61), the
effective branch address (40_branch_at_exit.md R77), the scan address (43_special_branch.md R141). -/

namespace Sys2Proof.Machine

/-- X[n]: all 32 registers are ordinary (10_state.md R10). -/
def State.readX (s : State) (n : Field5) : Word24 := s.x[n.toNat]'n.isLt

/-- X[n] <- v; a write of the register that an interrupted IVIB or SVR took its eba from is recorded
(43_special_branch.md R131, log 24). -/
def State.writeX (s : State) (n : Field5) (v : Word24) : State :=
  { s with
    x := s.x.set n.toNat v n.isLt
    savedEbaWritten := if s.savedEbaReg = some n then some n else s.savedEbaWritten }

/-- Whether a register file holds another value in register r. -/
def State.changesX (s : State) (f : XFile) (r : Field5) : Bool := f[r.toNat]'r.isLt != s.readX r

/-- All of X at once; a change of the register that an interrupted IVIB or SVR took its eba from is
recorded (R131, log 24). -/
def State.loadX (s : State) (f : XFile) : State :=
  { s with
    x := f
    savedEbaWritten :=
      match s.savedEbaReg with
      | none => s.savedEbaWritten
      | some r => if s.changesX f r then some r else s.savedEbaWritten }

/-- The literal jk = j ++ k, j on the left (R61). -/
def literalJk (j k : Field5) : BitVec 10 := j ++ k

/-- sext_24: 14 copies of the high-order bit on the left (R61, 00_scope.md R5). -/
def sext24 (v : BitVec 10) : Word24 := v.signExtend 24

/-- eba of the short format: X[k] (R77). -/
def State.ebaShort (s : State) (k : Field5) : Addr := s.readX k

/-- eba of the long format: (X[k] + h) mod 2^24 (R77, R60). -/
def State.ebaLong (s : State) (k : Field5) (h : BitVec 24) : Addr := s.readX k + h

/-- An address with its nine low-order bits 0 (R141). -/
def clearLowNine (a : Addr) : Addr := a &&& 0xFFFE00#24

/-- ea of SCAN (R140, R141). -/
def State.scanAddress (s : State) (k : Field5) (h : BitVec 24) : Addr := clearLowNine (s.readX k + h)

end Sys2Proof.Machine
end

