-- ==== Sys2Proof/Machine/Ops.lean ====
section
/-! DEFINITION. The shared operations: the fields of S11 and the mode, the 7-bit code, sequential
advance, the skipping rule, taking an interruption (IC), transfer of control, and the exit point with
its return from interruption and from supervisor call. -/

namespace Sys2Proof.Machine

/-! ### The fields of S11 (10_state.md R21) -/

/-- S11[0:2]. -/
def s11Mode (v : Word24) : BitVec 3 := unitBits v 0 3
/-- S11[3:9]. -/
def s11Bsm (v : Word24) : BitVec 7 := unitBits v 3 7
/-- S11[10:12]. -/
def s11IcMode (v : Word24) : BitVec 3 := unitBits v 10 3
/-- S11[13:15]. -/
def s11SvcMode (v : Word24) : BitVec 3 := unitBits v 13 3
/-- S11[16:23]. -/
def s11Rest (v : Word24) : BitVec 8 := unitBits v 16 8

/-- S11 of its fields, from left to right. -/
def s11Of (mode : BitVec 3) (bsm : BitVec 7) (icMode svcMode : BitVec 3) (rest : BitVec 8) : Word24 :=
  mode ++ bsm ++ icMode ++ svcMode ++ rest

/-! ### The mode (R22, R23) -/

/-- A truth value as the bit that stands for it, where `is` stands for true. -/
def polarity (is b : Bool) : Bool := if b then is else !is

/-- Three bits from left to right. -/
def bits3 (a b c : Bool) : BitVec 3 := BitVec.ofBool a ++ BitVec.ofBool b ++ BitVec.ofBool c

/-- The bits that hold a mode (R23). -/
def encodeMode (e : ModeEnc) (m : Mode) : BitVec 3 :=
  let s := polarity e.supervisoryIs (m.sup == .supervisory)
  let d := polarity e.disabledIs (m.dis == .disabled)
  let c := polarity e.concurrentIs (m.conc == .concurrent)
  match e.order with
  | .sdc => bits3 s d c
  | .scd => bits3 s c d
  | .dsc => bits3 d s c
  | .dcs => bits3 d c s
  | .csd => bits3 c s d
  | .cds => bits3 c d s

/-- The mode of its bits: b.1 the supervisory, b.2.1 the disabled, b.2.2 the concurrent bit. -/
def modeOfBits (e : ModeEnc) (b : Bool × Bool × Bool) : Mode :=
  { sup := if b.1 == e.supervisoryIs then .supervisory else .problem
    dis := if b.2.1 == e.disabledIs then .disabled else .enabled
    conc := if b.2.2 == e.concurrentIs then .concurrent else .notConcurrent }

/-- The mode that three bits hold (R23). -/
def decodeMode (e : ModeEnc) (v : BitVec 3) : Mode :=
  let b0 := v.getMsbD 0
  let b1 := v.getMsbD 1
  let b2 := v.getMsbD 2
  match e.order with
  | .sdc => modeOfBits e (b0, b1, b2)
  | .scd => modeOfBits e (b0, b2, b1)
  | .dsc => modeOfBits e (b1, b0, b2)
  | .dcs => modeOfBits e (b2, b0, b1)
  | .csd => modeOfBits e (b1, b2, b0)
  | .cds => modeOfBits e (b2, b1, b0)

/-- The mode of the machine: what S11[0:2] says (R22). -/
def State.mode (s : State) : Mode := decodeMode s.inst.modeEnc (s11Mode s.s11)

/-- can_take of 60_exceptions.md R152. -/
def State.canTake (s : State) : Bool := s.mode.dis == .enabled && s.pending

/-! ### Keys (20_memory.md R38) -/

/-- normalKey(mode.sup). -/
def State.normalKey (s : State) : Privilege → Key
  | .supervisory => s.inst.normalKeySupervisory
  | .problem => s.inst.normalKeyProblem

/-- alternateKey(mode.sup). -/
def State.alternateKey (s : State) : Privilege → Key
  | .supervisory => s.inst.alternateKeySupervisory
  | .problem => s.inst.alternateKeyProblem

/-! ### The branch-skip-MPC state (10_state.md R25; its 7-bit code is in Decode.lean) -/

/-- The internal branch-skip-MPC state (R25). -/
def State.bsm (s : State) : Bsm := { branch := s.bstate, skip := s.skip, carry := s.carry }

/-! ### Sequential advance (R13, R14) -/

/-- next = loc + LEN, where it exists. -/
def State.nextLoc (s : State) (len : Nat) : Addr := s.loc + BitVec.ofNat 24 len

/-- loc + LEN does not exceed 2^24 - 1. -/
def State.hasNext (s : State) (len : Nat) : Bool := decide (s.loc.toNat + len < 2 ^ 24)

/-- loc <- next; refused past the top of storage. -/
def advance (len : Nat) (s : State) : Result :=
  if s.hasNext len then .next { s with loc := s.nextLoc len } else .refused .pastTopOfStorage

/-- A flagged instruction is ignored while skipping (42_skip.md R101). -/
def State.ignores (s : State) (flag : Bool) : Bool := s.skip == .skipping && flag

/-- The skipping rule (R101): an ignored instruction only advances loc. -/
def unlessSkipped (flag : Bool) (len : Nat) (s : State) (body : State → Result) : Result :=
  if s.ignores flag then advance len s else body s

/-! ### Taking an interruption: what IC does (43_special_branch.md R134) -/

/-- Fixed location 0 (20_memory.md R45). -/
def interruptionLocation : Addr := 0

/-- Fixed location 256 (R45). -/
def supervisorCallLocation : Addr := 256

/-- Supervisory, disabled, concurrent (R134 step 2). -/
def interruptionMode : Mode := { sup := .supervisory, dis := .disabled, conc := .concurrent }

/-- The state IC leaves, ret being the return address (R134). S10 is a draw when no branch is
outstanding (10_state.md R27). -/
def State.enterInterruption (s : State) (ret : Addr) : State :=
  { s with
    s11 := s11Of (encodeMode s.inst.modeEnc interruptionMode) (encodeBsm s.inst.bsmCode s.bsm)
      (s11Mode s.s11) (s11SvcMode s.s11) (s11Rest s.s11)
    s9 := ret
    s10 := if s.bstate = .none then Config.freeS10 s.tick else s.ieba
    bstate := .none
    skip := .notSkipping
    carry := s.inst.noCarry
    ebaReg := none
    savedEbaReg := s.ebaReg
    savedEbaWritten := none
    loc := interruptionLocation }

/-- IC: at once, under the supervisory normal key; a missing location 0 is refused (R149). -/
def interrupt (ret : Addr) (s : State) : Result :=
  if s.isPresent (s.normalKey .supervisory) interruptionLocation then .next (s.enterInterruption ret)
  else .refused (.missingFixedLocation interruptionLocation)

/-- PAUSE (R120): a pending interruption that can be taken is taken now, with return address next. -/
def pauseHere (s : State) : Result :=
  if s.canTake then
    if s.hasNext 1 then interrupt (s.nextLoc 1) s else .refused .pastTopOfStorage
  else advance 1 s

/-! ### Transfer of control (41_exit.md R94) -/

/-- raise MI (60_exceptions.md R148). -/
def State.raiseMi (s : State) : State := { s with exc := { s.exc with mi := true } }
/-- raise MA. -/
def State.raiseMa (s : State) : State := { s with exc := { s.exc with ma := true } }
/-- raise PI. -/
def State.raisePi (s : State) : State := { s with exc := { s.exc with pi := true } }
/-- raise PV. -/
def State.raisePv (s : State) : State := { s with exc := { s.exc with pv := true } }

/-- Transfer(key, t): loc <- t if present. A missing target raises MI; the interruption is taken at once
with S9 a draw while enabled, and the run stops while disabled (R94, D19; log 17). -/
def transfer (key : Key) (t : Addr) (s : State) : Result :=
  if s.isPresent key t then .next { s with loc := t }
  else if s.mode.dis = .enabled then interrupt (Config.freeS9 s.tick) s.raiseMi
  else .fault (.missingTarget s.loc s.raiseMi)

/-! ### The exit point (41_exit.md R92, R93) -/

/-- An ordinary branch is outstanding (R92). -/
def exitBranch (s : State) : Result :=
  transfer (s.normalKey s.mode.sup) s.ieba { s with bstate := .none, ebaReg := none }

/-- IVIB at its EXIT (43_special_branch.md R119): the buffers are emptied. -/
def exitIvib (s : State) : Result :=
  transfer (s.normalKey s.mode.sup) s.ieba { s with ib := [], bstate := .none, ebaReg := none }

/-- Supervisory and concurrent; disable/enable is not altered (R127 step 3). -/
def supervisorCallMode (m : Mode) : Mode := { m with sup := .supervisory, conc := .concurrent }

/-- The state SVC leaves at its EXIT (R127), steps 2 to 5 and the branch of step 6. -/
def State.enterSupervisorCall (s : State) : State :=
  { s with
    s11 := s11Of (encodeMode s.inst.modeEnc (supervisorCallMode s.mode))
      (encodeBsm s.inst.bsmCode { branch := .none, skip := s.skip, carry := s.carry })
      (s11IcMode s.s11) (s11Mode s.s11) (s11Rest s.s11)
    bstate := .none
    skip := .notSkipping
    carry := s.inst.noCarry
    ebaReg := none
    loc := supervisorCallLocation }

/-- SVC at its EXIT (R127); a missing location 256 is refused (60_exceptions.md R149). -/
def exitSvc (s : State) : Result :=
  if s.isPresent (s.normalKey .supervisory) supervisorCallLocation then .next s.enterSupervisorCall
  else .refused (.missingFixedLocation supervisorCallLocation)

/-- Mode bits and branch-skip-MPC state set from saved fields of S11 (R129, R137 steps 1 and 2). -/
def State.restoreFrom (s : State) (savedMode : BitVec 3) : State :=
  let b := decodeBsm s.inst.bsmCode (s11Bsm s.s11)
  { s with
    s11 := s11Of savedMode (s11Bsm s.s11) (s11IcMode s.s11) (s11SvcMode s.s11) (s11Rest s.s11)
    bstate := b.branch
    skip := b.skip
    carry := b.carry }

/-- The state in which the branch of an SVR's EXIT is taken: steps 1 and 2 of R129. -/
def State.afterSvr (s : State) : State := { s.restoreFrom (s11SvcMode s.s11) with ebaReg := none }

/-- SVR at its EXIT (R129): return from a supervisor call, under the normal key of the new mode. An
outstanding branch in S11[3:9] has no eba and is refused. -/
def exitSvr (s : State) : Result :=
  if s.afterSvr.bstate = .none then transfer (s.afterSvr.normalKey s.afterSvr.mode.sup) s.ieba s.afterSvr
  else .refused .svrRestoresOutstandingBranch

/-- The branch kinds whose eba R131 watches. -/
def watchedBranch : BranchState → Bool
  | .outstanding .ivib => true
  | .outstanding .svr => true
  | _ => false

/-- The state in which the branch of an IR's EXIT is taken: steps 1 to 3 of R137. -/
def State.afterIr (s : State) : State :=
  { s.restoreFrom (s11IcMode s.s11) with
    ieba := s.s10
    ebaReg := if watchedBranch (s.restoreFrom (s11IcMode s.s11)).bstate then s.savedEbaReg else none }

/-- The register, if any, that was written between the IVIB or SVR which an IR's EXIT would make
outstanding again and now (R131, log 24). -/
def State.irWritten (s : State) : Option Field5 :=
  if watchedBranch (decodeBsm s.inst.bsmCode (s11Bsm s.s11)).branch then s.savedEbaWritten else none

/-- IR at its EXIT (R137): return from an interruption. The target is S9, not ieba. -/
def exitIr (s : State) : Result :=
  match s.irWritten with
  | none => transfer (s.afterIr.normalKey s.afterIr.mode.sup) s.s9 s.afterIr
  | some r => .refused (.ebaRegisterWritten r)

/-- ExitPoint() (R92, R93). -/
def exitPoint (s : State) : Result :=
  match s.bstate with
  | .none => advance 1 s
  | .outstanding .br => exitBranch s
  | .outstanding .ivib => exitIvib s
  | .outstanding .svc => exitSvc s
  | .outstanding .svr => exitSvr s
  | .outstanding .ir => exitIr s

/-! ### Branching at exit (40_branch_at_exit.md R76, R88; 43_special_branch.md R117) -/

/-- A successful branch becomes the outstanding one, unless there is one. -/
def State.makeOutstanding (s : State) (kind : BranchKind) (eba : Addr) (reg : Option Field5) : State :=
  { s with ieba := eba, bstate := .outstanding kind, ebaReg := reg }

/-- The branch action of an unskipped branch instruction. -/
def branchAtExit (success : Bool) (eba : Addr) (len : Nat) (s : State) : Result :=
  if s.bstate = .none ∧ success = true then advance len (s.makeOutstanding .br eba none)
  else advance len s

/-- The skip action of an unskipped SKIP (42_skip.md R105). -/
def setSkip (f : CondFn) (i j : Field5) (s : State) : Result :=
  advance 1 { s with skip := if s.condition f i j then .skipping else .notSkipping }

/-! ### The processor state as a whole (R98, R144) -/

/-- The state of the processor itself, storage and the model's own fields apart. -/
def State.image (s : State) : MachineImage :=
  { x := s.x, loc := s.loc, c := s.c, s9 := s.s9, s10 := s.s10, s11 := s.s11, bstate := s.bstate,
    ieba := s.ieba, skip := s.skip, carry := s.carry, exc := s.exc, ib := s.ib }

/-- The state with the processor replaced by an image (R144). -/
def State.loadImage (s : State) (m : MachineImage) : State :=
  { s with
    x := m.x, loc := m.loc, c := m.c, s9 := m.s9, s10 := m.s10, s11 := m.s11, bstate := m.bstate,
    ieba := m.ieba, skip := m.skip, carry := m.carry, exc := m.exc, ib := m.ib,
    ebaReg := none, savedEbaReg := none, savedEbaWritten := none }

end Sys2Proof.Machine
end

