-- ==== Sys2Proof/Machine/Branch.lean ====
section
/-! DEFINITION. The Branch-at-Exit instructions (40_branch_at_exit.md R76 to R87). -/

namespace Sys2Proof.Machine

/-- The step of every conditional branch (R76). -/
def conditionalBranch (f : CondFn) (flag : Bool) (i j k : Field5) (h : BitVec 24) (s : State) : Result :=
  unlessSkipped flag 2 s fun s => branchAtExit (s.condition f i j) (s.ebaLong k h) 2 s

/-- BAND i,j,k,h (R79). -/
def execBand (flag : Bool) (i j k : Field5) (h : BitVec 24) (s : State) : Result :=
  conditionalBranch .and flag i j k h s

/-- BTAF i,j,k,h (R80). -/
def execBtaf (flag : Bool) (i j k : Field5) (h : BitVec 24) (s : State) : Result :=
  conditionalBranch .taf flag i j k h s

/-- BFAF i,j,k,h (R81). -/
def execBfaf (flag : Bool) (i j k : Field5) (h : BitVec 24) (s : State) : Result :=
  conditionalBranch .faf flag i j k h s

/-- BOR i,j,k,h (R82). -/
def execBor (flag : Bool) (i j k : Field5) (h : BitVec 24) (s : State) : Result :=
  conditionalBranch .or flag i j k h s

/-- BTOF i,j,k,h (R83). -/
def execBtof (flag : Bool) (i j k : Field5) (h : BitVec 24) (s : State) : Result :=
  conditionalBranch .tof flag i j k h s

/-- BFOF i,j,k,h (R84). -/
def execBfof (flag : Bool) (i j k : Field5) (h : BitVec 24) (s : State) : Result :=
  conditionalBranch .fof flag i j k h s

/-- BEQ i,j,k,h (R85). -/
def execBeq (flag : Bool) (i j k : Field5) (h : BitVec 24) (s : State) : Result :=
  conditionalBranch .eq flag i j k h s

/-- BXOR i,j,k,h (R86). -/
def execBxor (flag : Bool) (i j k : Field5) (h : BitVec 24) (s : State) : Result :=
  conditionalBranch .xor flag i j k h s

/-- BU k (R87): always successful, eba = X[k]. -/
def execBu (flag : Bool) (k : Field5) (s : State) : Result :=
  unlessSkipped flag 1 s fun s => branchAtExit true (s.ebaShort k) 1 s

end Sys2Proof.Machine
end

