-- ==== Sys2Proof/Machine/Exit.lean ====
section
/-! DEFINITION. The exit instructions (41_exit.md R91 to R99). -/

namespace Sys2Proof.Machine

/-- EXIT (R91): its skip flag is ignored (R95). -/
def execExit (s : State) : Result := exitPoint s

/-- The first two functions of EXITL: stop skipping, then MLX, an uninterpreted function of Config that
changes X registers only (R96, R98; log 28). -/
def State.afterMlx (s : State) (i j k : Field5) : State :=
  let t := { s with skip := .notSkipping }
  t.loadX (Config.mlx i j k t.image)

/-- MLX changed the X register from which an outstanding IVIB or SVR formed its eba (R131). -/
def mlxTouchesEba (r : Field5) (before after : State) : Bool :=
  watchedBranch before.bstate && after.readX r != before.readX r

/-- EXITL i,jk (R96): flagged under skipping, only the exit point remains (R97). -/
def execExitl (flag : Bool) (i j k : Field5) (s : State) : Result :=
  if s.ignores flag then exitPoint s
  else
    let t := s.afterMlx i j k
    match s.ebaReg with
    | none => exitPoint t
    | some r => if mlxTouchesEba r s t then .refused (.ebaRegisterWritten r) else exitPoint t

end Sys2Proof.Machine
end

