-- ==== Sys2Proof/Machine/Skip.lean ====
section
/-! DEFINITION. The skip instructions (42_skip.md R105 to R114). -/

namespace Sys2Proof.Machine

/-- The step of every SKIP (R105): a flagged one can itself be skipped. -/
def skipOn (f : CondFn) (flag : Bool) (i j : Field5) (s : State) : Result :=
  unlessSkipped flag 1 s fun s => setSkip f i j s

/-- SKAND i,j (R107). -/
def execSkand (flag : Bool) (i j : Field5) (s : State) : Result := skipOn .and flag i j s

/-- SKTAF i,j (R108). -/
def execSktaf (flag : Bool) (i j : Field5) (s : State) : Result := skipOn .taf flag i j s

/-- SKFAF i,j (R109). -/
def execSkfaf (flag : Bool) (i j : Field5) (s : State) : Result := skipOn .faf flag i j s

/-- SKOR i,j (R110). -/
def execSkor (flag : Bool) (i j : Field5) (s : State) : Result := skipOn .or flag i j s

/-- SKTOF i,j (R111). -/
def execSktof (flag : Bool) (i j : Field5) (s : State) : Result := skipOn .tof flag i j s

/-- SKFOF i,j (R112). -/
def execSkfof (flag : Bool) (i j : Field5) (s : State) : Result := skipOn .fof flag i j s

/-- SKEQ i,j (R113). -/
def execSkeq (flag : Bool) (i j : Field5) (s : State) : Result := skipOn .eq flag i j s

/-- SKXOR i,j (R114). -/
def execSkxor (flag : Bool) (i j : Field5) (s : State) : Result := skipOn .xor flag i j s

end Sys2Proof.Machine
end

