-- ==== Sys2Proof/Machine/Special.lean ====
section
/-! DEFINITION. The special purpose branch instructions IVIB, PAUSE, PI, SVC, SVR, IC, IR, SCAN
(43_special_branch.md R117 to R146). -/

namespace Sys2Proof.Machine

/-- IVIB k,h (R118): the rest is at its EXIT (R119). -/
def execIvib (flag : Bool) (k : Field5) (h : BitVec 24) (s : State) : Result :=
  unlessSkipped flag 2 s fun s =>
    if s.bstate = .none then advance 2 (s.makeOutstanding .ivib (s.ebaLong k h) (some k))
    else advance 2 s

/-- PAUSE (R120). -/
def execPause (flag : Bool) (s : State) : Result := unlessSkipped flag 1 s fun s => pauseHere s

/-- PI i,jk (R121): X[i] and the PI bit, then the PAUSE. Refused in disabled mode (R122), and when it
writes the register of an outstanding IVIB or SVR (R131). -/
def execPi (flag : Bool) (i j k : Field5) (s : State) : Result :=
  unlessSkipped flag 1 s fun s =>
    if watchedBranch s.bstate = true ∧ s.ebaReg = some i then .refused (.ebaRegisterWritten i)
    else if s.mode.dis = .disabled then .refused .piWhileDisabled
    else pauseHere (s.writeX i (sext24 (literalJk j k))).raisePi

/-- SVC i,jk (R124): step 1 of the call; the rest is at its EXIT (R127). Suppressed whole by an
outstanding branch (R125). -/
def execSvc (flag : Bool) (i j k : Field5) (s : State) : Result :=
  unlessSkipped flag 1 s fun s =>
    if s.bstate = .none then
      advance 1 { s.writeX i (sext24 (literalJk j k)) with bstate := .outstanding .svc }
    else advance 1 s

/-- PV of an SVR or IR in problem mode: set, but a draw when an outstanding branch suppresses the
instruction (R130, R138, D16). -/
def State.privilegeViolation (s : State) : State :=
  if s.bstate = .none ∨ Config.freePv s.tick = true then s.raisePv else s

/-- SVR k,h (R128, R130): the rest is at its EXIT (R129). -/
def execSvr (flag : Bool) (k : Field5) (h : BitVec 24) (s : State) : Result :=
  unlessSkipped flag 2 s fun s =>
    if s.mode.sup = .problem then advance 2 s.privilegeViolation
    else if s.bstate = .none then advance 2 (s.makeOutstanding .svr (s.ebaLong k h) (some k))
    else advance 2 s

/-- IR (R136, R138): the rest is at its EXIT (R137). -/
def execIr (flag : Bool) (s : State) : Result :=
  unlessSkipped flag 1 s fun s =>
    if s.mode.sup = .problem then advance 1 s.privilegeViolation
    else if s.bstate = .none then advance 1 { s with bstate := .outstanding .ir }
    else advance 1 s

/-- SCAN k,h in supervisory mode (R140 to R146), with ScanLayout an uninterpreted function of Config
(log 29). A missing block raises MA and loads nothing; the interruption is taken at once with S9 a
draw while enabled, and the run stops while disabled (R143, D19; log 18). -/
def scanIn (a : Addr) (s : State) : Result :=
  match s.memory.memRead (s.alternateKey s.mode.sup) a s.inst.scanUnits.val with
  | some block => .next (s.loadImage (Config.scanLayout block))
  | none =>
    if s.mode.dis = .enabled then interrupt (Config.freeS9 s.tick) s.raiseMa
    else .fault (.missingScanBlock s.loc s.raiseMa)

/-- SCAN k,h (R140, R142): not suppressed by an outstanding branch (R146). -/
def execScan (flag : Bool) (k : Field5) (h : BitVec 24) (s : State) : Result :=
  unlessSkipped flag 2 s fun s =>
    if s.mode.sup = .problem then advance 2 s.raisePv else scanIn (s.scanAddress k h) s

/-- IC (R132 to R135): inserted before the instruction at loc, which is the return address (R133). It
has no skip flag and is never skipped (42_skip.md R116). -/
def execIc (s : State) : Result := interrupt s.loc s

end Sys2Proof.Machine
end

