-- ==== Sys2Proof/Machine/Dispatch.lean ====
section
/-! DEFINITION. One arm per constructor of Instr: the meaning of each instruction. -/

namespace Sys2Proof.Machine

def exec (i : Instr) (s : State) : Host.Outcome State Fault Refusal :=
  match i with
  | .band f a b k h => Sys2Proof.Machine.execBand f a b k h s
  | .btaf f a b k h => Sys2Proof.Machine.execBtaf f a b k h s
  | .bfaf f a b k h => Sys2Proof.Machine.execBfaf f a b k h s
  | .bor f a b k h => Sys2Proof.Machine.execBor f a b k h s
  | .btof f a b k h => Sys2Proof.Machine.execBtof f a b k h s
  | .bfof f a b k h => Sys2Proof.Machine.execBfof f a b k h s
  | .beq f a b k h => Sys2Proof.Machine.execBeq f a b k h s
  | .bxor f a b k h => Sys2Proof.Machine.execBxor f a b k h s
  | .bu f _ _ k => Sys2Proof.Machine.execBu f k s
  | .exit _ _ _ _ => Sys2Proof.Machine.execExit s
  | .exitl f a b k => Sys2Proof.Machine.execExitl f a b k s
  | .skand f a b _ => Sys2Proof.Machine.execSkand f a b s
  | .sktaf f a b _ => Sys2Proof.Machine.execSktaf f a b s
  | .skfaf f a b _ => Sys2Proof.Machine.execSkfaf f a b s
  | .skor f a b _ => Sys2Proof.Machine.execSkor f a b s
  | .sktof f a b _ => Sys2Proof.Machine.execSktof f a b s
  | .skfof f a b _ => Sys2Proof.Machine.execSkfof f a b s
  | .skeq f a b _ => Sys2Proof.Machine.execSkeq f a b s
  | .skxor f a b _ => Sys2Proof.Machine.execSkxor f a b s
  | .ivib f _ _ k h => Sys2Proof.Machine.execIvib f k h s
  | .pause f _ _ _ => Sys2Proof.Machine.execPause f s
  | .pi f a b k => Sys2Proof.Machine.execPi f a b k s
  | .svc f a b k => Sys2Proof.Machine.execSvc f a b k s
  | .svr f _ _ k h => Sys2Proof.Machine.execSvr f k h s
  | .ir f _ _ _ => Sys2Proof.Machine.execIr f s
  | .scan f _ _ k h => Sys2Proof.Machine.execScan f k h s
  | .ic => Sys2Proof.Machine.execIc s

end Sys2Proof.Machine
end

