-- ==== Sys2Proof/Machine/Fetch.lean ====
section
/-! DEFINITION. What surrounds the execution of an instruction: the unconstrained inputs of the moment
(60_exceptions.md R152, R154; log 15), the fetch (20_memory.md R41, R47) and the prefetch. -/

namespace Sys2Proof.Machine

/-- No exception bit is cleared. -/
def clearNothing : ExceptionBits := noExceptions

/-- The moment that governs the next step; when the schedule has run out nothing happens but the
sequential execution (log 15, DESIGN CHOICE). -/
def State.moment (s : State) : Moment :=
  match s.schedule with
  | [] =>
    { asks := s.outsideAsks, takeIc := false, clear := clearNothing, pick0 := none, pick1 := none,
      prefetch := [] }
  | m :: _ => m

/-- The bits of e that are not in the mask. -/
def clearBits (e mask : ExceptionBits) : ExceptionBits :=
  { mi := e.mi && !mask.mi, ma := e.ma && !mask.ma, pi := e.pi && !mask.pi, pv := e.pv && !mask.pv }

/-- The state at the beginning of a step: the moment's outside request and clearing, and a new tick. -/
def State.begin (s : State) : State :=
  { s with
    outsideAsks := s.moment.asks
    exc := clearBits s.exc s.moment.clear
    schedule := s.schedule.tail
    tick := s.tick + 1 }

/-- The triples of IB that may answer a fetch (R47). -/
def State.buffered (s : State) (key : Key) (a : Addr) : List Unit24 :=
  s.ib.filterMap fun t => if t.key = key ∧ t.addr = a then some t.unit else none

/-- One unit of an instruction: from the buffers where the moment picks a matching triple, else from
storage (R41, R47). -/
def State.fetchUnit (s : State) (pick : Option Nat) (key : Key) (a : Addr) : Option Unit24 :=
  match pick with
  | none => s.memory.read (location key a)
  | some n =>
    match (s.buffered key a)[n]? with
    | some u => some u
    | none => s.memory.read (location key a)

/-- The refusal that a decode error is. -/
def refusalOf : DecodeError → Refusal
  | .unknownOperationCode op => .unknownOperationCode op
  | .noUnit => .pastTopOfStorage
  | .noSecondUnit _ => .pastTopOfStorage

/-- The instruction that the fetched units hold. -/
def instrOf (opc : Opc) (us : List Unit24) : Except Refusal Instr :=
  match decode opc us with
  | .ok (i, _) => .ok i
  | .error e => .error (refusalOf e)

/-- The address of an instruction's second unit. -/
def State.secondUnit (s : State) : Addr := s.loc + 1

/-- Fetch (R41): the instruction at loc, under the normal key of the mode, or why there is none. -/
def State.fetch (s : State) (m : Moment) : Except Refusal Instr :=
  let key := s.normalKey s.mode.sup
  match s.fetchUnit m.pick0 key s.loc with
  | none => .error (.missingInstructionUnit key s.loc)
  | some u0 =>
    if lengthOf s.inst.opc u0 = some 2 then
      if s.inst.longAligned = true ∧ s.loc.toNat % 2 = 1 then .error (.oddLongInstruction s.loc)
      else if s.loc.toNat + 2 ≤ 2 ^ 24 then
        match s.fetchUnit m.pick1 key s.secondUnit with
        | none => .error (.missingInstructionUnit key s.secondUnit)
        | some u1 => instrOf s.inst.opc [u0, u1]
      else .error .pastTopOfStorage
    else instrOf s.inst.opc [u0]

/-- The triple that prefetching (key, a) adds, if the unit is present (R47). -/
def State.prefetched (s : State) (r : Key × Addr) : Option Buffered :=
  (s.memory.read (location r.1 r.2)).map fun u => { key := r.1, addr := r.2, unit := u }

/-- IB with the units the moment prefetches (R47). -/
def State.prefetch (s : State) (m : Moment) : State :=
  { s with ib := s.ib ++ m.prefetch.filterMap s.prefetched }

/-- The units of a table word, put where the next instruction is fetched from. -/
def State.placeWord (s : State) (nbits w : Nat) : Memory :=
  let key := s.normalKey s.mode.sup
  let m := s.memory.put (location key s.loc) (BitVec.ofNat 24 (w % 2 ^ nbits))
  if s.loc.toNat + 2 ≤ 2 ^ 24 then
    m.put (location key s.secondUnit) (BitVec.ofNat 24 (w % 2 ^ nbits / 2 ^ 24))
  else m

end Sys2Proof.Machine
end

