-- ==== Sys2Proof/Machine/Step.lean ====
section
/-! DEFINITION. One step of the machine: the moment, then either an IC that it takes or the
instruction at loc (60_exceptions.md R152, 20_memory.md R41). -/

namespace Sys2Proof.Machine

/-- An interruption that can be taken is taken before the next instruction. -/
def State.takesIc (s : State) : Bool := s.begin.canTake && s.moment.takeIc

/-- One step. -/
def step (s : State) : Host.Outcome State Fault Refusal :=
  if s.takesIc then exec .ic s.begin
  else
    match s.begin.fetch s.moment with
    | .ok i => exec i (s.begin.prefetch s.moment)
    | .error r => .refused r

/-- s with a table word stored where step fetches its next instruction, and nothing that would keep the
very next step from running it: an empty schedule and empty buffers. -/
def State.withFetchWord (s : State) (nbits w : Nat) : State :=
  { s with memory := s.placeWord nbits w, ib := [], schedule := [] }

end Sys2Proof.Machine
end

