-- ==== Sys2Proof/Safety.lean ====
section
/-! DEFINITION. The terms in which claims speak of runs: the model's invariant, the coherence of the
instruction buffers (20_memory.md R49), the launch premises (70_reset_and_hazards.md R173), the end of
a run (R186), and the families of instructions that claims name. -/

namespace Sys2Proof.Machine

/-- The model's invariant: storage is in its canonical form, the register that R131 watches is recorded
only while the outstanding branch is an IVIB or an SVR, and only the interrupted program's is ever
recorded as written. -/
abbrev State.Inv (s : State) : Prop :=
  s.memory.wf ∧ (s.ebaReg.isSome = true → watchedBranch s.bstate = true) ∧
    (s.savedEbaWritten.isSome = true → s.savedEbaWritten = s.savedEbaReg)

/-- The branch state awaits the EXIT of an SVR or of an IR. -/
def returnOutstanding : BranchState → Bool
  | .outstanding .svr => true
  | .outstanding .ir => true
  | _ => false

/-- The returns are privileged (60_exceptions.md R165, R167): the parameters obey their laws, the carry
state is a value that exists, no problem program has an SVR or IR outstanding, and none was saved by an
interruption of a problem program. -/
abbrev State.ReturnsPrivileged (s : State) : Prop :=
  s.inst.wellFormed ∧ s.carry ∈ s.inst.carries ∧
    (s.mode.sup = .problem → returnOutstanding s.bstate = false) ∧
    ((decodeMode s.inst.modeEnc (s11IcMode s.s11)).sup = .problem →
      returnOutstanding (decodeBsm s.inst.bsmCode (s11Bsm s.s11)).branch = false)

/-- IB agrees with storage (R49): every triple is what storage holds. -/
abbrev State.Coherent (s : State) : Prop :=
  ∀ t ∈ s.ib, s.memory.read (location t.key t.addr) = some t.unit

/-- The launch premises no_branch_outstanding, not_skipping_at_launch, carry = noCarry,
no_exception_recorded, and IB empty or equal to storage (R173). -/
abbrev State.LaunchPremises (s : State) : Prop :=
  s.bstate = .none ∧ s.skip = .notSkipping ∧ s.carry = s.inst.noCarry ∧ s.exc = noExceptions ∧ s.Coherent

/-- "No trap": no exception bit is set (60_exceptions.md R170). -/
abbrev State.NoTrap (s : State) : Prop := excAny s.exc = false

/-- The run is over: loc is the launch's end address and no branch is outstanding (R186). THIS SAYS
NOTHING OF WHAT THE MPM DOES AT THAT ADDRESS. -/
abbrev State.runOver (s : State) (endAddr : Addr) : Prop := s.loc = endAddr ∧ s.bstate = .none

/-- The eight conditional branches BAND BTAF BFAF BOR BTOF BFOF BEQ BXOR, by their function (R73). -/
def branchOf : CondFn → Bool → Field5 → Field5 → Field5 → BitVec 24 → Instr
  | .and, f, i, j, k, h => .band f i j k h
  | .taf, f, i, j, k, h => .btaf f i j k h
  | .faf, f, i, j, k, h => .bfaf f i j k h
  | .or, f, i, j, k, h => .bor f i j k h
  | .tof, f, i, j, k, h => .btof f i j k h
  | .fof, f, i, j, k, h => .bfof f i j k h
  | .eq, f, i, j, k, h => .beq f i j k h
  | .xor, f, i, j, k, h => .bxor f i j k h

/-- The eight skips SKAND SKTAF SKFAF SKOR SKTOF SKFOF SKEQ SKXOR, by their function (R73, R104). -/
def skipOf : CondFn → Bool → Field5 → Field5 → Field5 → Instr
  | .and, f, i, j, k => .skand f i j k
  | .taf, f, i, j, k => .sktaf f i j k
  | .faf, f, i, j, k => .skfaf f i j k
  | .or, f, i, j, k => .skor f i j k
  | .tof, f, i, j, k => .sktof f i j k
  | .fof, f, i, j, k => .skfof f i j k
  | .eq, f, i, j, k => .skeq f i j k
  | .xor, f, i, j, k => .skxor f i j k

/-- EXIT and EXITL. -/
def isExitOp : Op → Bool
  | .exit => true
  | .exitl => true
  | _ => false

/-- LEN of a mnemonic (30_encoding.md R54). -/
def opLen (op : Op) : Nat := if op.isLong then 2 else 1

/-- A state an interruption has just been entered in: location 0 in supervisory, disabled, concurrent
mode with the branch-skip-MPC state as IC sets it (43_special_branch.md R134 steps 2, 6, 7). -/
abbrev State.justInterrupted (t : State) : Prop :=
  t.loc = interruptionLocation ∧ t.mode = interruptionMode ∧ t.bstate = .none ∧
    t.skip = .notSkipping ∧ t.carry = t.inst.noCarry

/-- The instruction is a SCAN that loads the processor: not skipped, in supervisory mode, its block
present (R140, R144). -/
abbrev State.loadsMachine (s : State) (i : Instr) : Prop :=
  ∃ f a b k h, i = .scan f a b k h ∧ s.ignores f = false ∧ s.mode.sup = .supervisory ∧
    (s.memory.memRead (s.alternateKey .supervisory) (s.scanAddress k h) s.inst.scanUnits.val).isSome = true

/-- The instruction is EXIT or EXITL. -/
abbrev isExit (i : Instr) : Prop := ∃ f a b k, i = .exit f a b k ∨ i = .exitl f a b k

/-- The mode bits in force when the outstanding branch's EXIT transfers control: those SVR and IR restore
(43_special_branch.md R129, R137), else the present ones. -/
def State.modeAtExit (s : State) : BitVec 3 :=
  match s.bstate with
  | .outstanding .svr => s11SvcMode s.s11
  | .outstanding .ir => s11IcMode s.s11
  | _ => s11Mode s.s11

/-- The branch-skip-MPC state then: what S11[3:9] designates for SVR and IR, else the branch used up. -/
def State.bsmAtExit (s : State) : Bsm :=
  match s.bstate with
  | .outstanding .svr => decodeBsm s.inst.bsmCode (s11Bsm s.s11)
  | .outstanding .ir => decodeBsm s.inst.bsmCode (s11Bsm s.s11)
  | _ => { branch := .none, skip := s.skip, carry := s.carry }

/-- The internal eba then: IR sets it from S10. -/
def State.iebaAtExit (s : State) : Addr :=
  match s.bstate with
  | .outstanding .ir => s.s10
  | _ => s.ieba

/-- The instruction buffers then: IVIB empties them (R119). -/
def State.ibAtExit (s : State) : List Buffered :=
  match s.bstate with
  | .outstanding .ivib => []
  | _ => s.ib

/-- The target of the outstanding branch is missing under the key of its transfer (41_exit.md R94; for SVR
and IR the key is that of the mode they restore). -/
def State.exitTargetMissing (s : State) : Bool :=
  match s.bstate with
  | .none => false
  | .outstanding .br => !s.isPresent (s.normalKey s.mode.sup) s.ieba
  | .outstanding .ivib => !s.isPresent (s.normalKey s.mode.sup) s.ieba
  | .outstanding .svc => false
  | .outstanding .svr => !s.isPresent (s.normalKey (decodeMode s.inst.modeEnc (s11SvcMode s.s11)).sup) s.ieba
  | .outstanding .ir => !s.isPresent (s.normalKey (decodeMode s.inst.modeEnc (s11IcMode s.s11)).sup) s.s9

/-- Where executing an instruction can enter an interruption: IC itself; PAUSE and PI; an EXIT or EXITL
whose target is missing; a SCAN whose block is missing. -/
abbrev State.interruptsAt (s : State) (i : Instr) : Prop :=
  i = .ic ∨ (∃ f a b k, i = .pause f a b k ∧ s.ignores f = false ∧ s.canTake = true) ∨
  (∃ f a b k, i = .pi f a b k ∧ s.ignores f = false) ∨ (isExit i ∧ s.exitTargetMissing = true) ∨
  ∃ f a b k h, i = .scan f a b k h ∧ s.ignores f = false ∧ s.mode.sup = .supervisory ∧
    s.memory.memRead (s.alternateKey .supervisory) (s.scanAddress k h) s.inst.scanUnits.val = none

/-- An interruption was entered by executing the instruction. -/
abbrev State.interruptedTo (s : State) (i : Instr) (t : State) : Prop := s.interruptsAt i ∧ t.justInterrupted

/-- The moment picks no buffered unit for the fetch, so that storage answers it (20_memory.md R47). -/
abbrev Moment.fetchesStorage (m : Moment) : Prop := m.pick0 = none ∧ m.pick1 = none

end Sys2Proof.Machine
end

