-- ==== Sys2Proof/Certificates/Slice0/Obligations.lean ====
section
/-! DEFINITION. The statements for the provers, in the order of OBLIGATIONS.json. Each docstring names the
rules of spec/ it formalises, and the log entries where it rests on a choice of the spec's or the
model's. -/

open Sys2Proof Sys2Proof.Machine

/-! ### Encoding -/

/-- Decoding the encoding of any programmable instruction gives it back, with every field at every value,
under any injective operation-code map (30_encoding.md R62, R71, R72). -/
def Obligations.DecodeOfEncodeIsIdentity : Prop :=
  ∀ (t : Opc) (i : Instr) (rest : List Unit24), t.Injective → i.wellFormed = true →
    decode t (encode t i ++ rest) = .ok (i, rest)

/-- What decodes is programmable, and its encoding is the units it was read from: no unused bit is lost
(R64, R71). -/
def Obligations.EncodeOfDecodeIsIdentity : Prop :=
  ∀ (t : Opc) (us : List Unit24) (i : Instr) (rest : List Unit24), decode t us = .ok (i, rest) →
    i.wellFormed = true ∧ encode t i ++ rest = us

/-- The encoding formula of R72: U0 = s*2^23 + op*2^15 + i*2^10 + j*2^5 + k, U1 = h, and a literal jk is
j = jk div 32, k = jk mod 32. -/
def Obligations.EncodingFormula : Prop :=
  (∀ (t : Opc) (op : Op) (s : Bool) (i j k : Field5) (h : BitVec 24),
    ∃ u0 : Unit24, encode t (op.term s i j k h) = (if op.isLong then [u0, h] else [u0]) ∧
      u0.toNat = s.toNat * 2 ^ 23 + (t.code op).toNat * 2 ^ 15 + i.toNat * 2 ^ 10 + j.toNat * 2 ^ 5 + k.toNat) ∧
  ∀ n : Nat, n < 2 ^ 10 → (literalJk (BitVec.ofNat 5 (n / 32)) (BitVec.ofNat 5 (n % 32))).toNat = n

/-- Words of 95_test_vectors.md 2.1 decode, under the provisional map, to the instructions they stand for
(log 5: the map is the spec's own). -/
def Obligations.SpecWordsDecode : Prop :=
  decode .provisional [0x0B0005#24, 0x000100#24] = .ok (.beq false 0 0 5 0x000100, []) ∧
  decode .provisional [0x8ADF1F#24, 0x7FFFFF#24] = .ok (.bfof true 23 24 31 0x7FFFFF, []) ∧
  decode .provisional [0x109000#24] = .ok (.exitl false 4 0 0, []) ∧
  decode .provisional [0x9998E0#24] = .ok (.skor true 6 7 0, []) ∧
  decode .provisional [0x211FFE#24] = .ok (.pi false 7 31 30, []) ∧
  decode .provisional [0x230001#24, 0x000001#24] = .ok (.scan false 0 0 1 1, []) ∧
  decode .provisional [0x000000#24] = .error (.unknownOperationCode 0)

/-! ### Operands and conditions -/

/-- The literal jk is j followed by k, instruction bits 14 to 23, and is sign-extended to 24 bits (R61). -/
def Obligations.LiteralIsSignExtended : Prop :=
  (∀ j k : Field5,
    (literalJk j k).toNat = 32 * j.toNat + k.toNat ∧
    ((literalJk j k).toNat < 2 ^ 9 → (sext24 (literalJk j k)).toNat = (literalJk j k).toNat) ∧
    (2 ^ 9 ≤ (literalJk j k).toNat →
      (sext24 (literalJk j k)).toNat = (2 ^ 24 - 2 ^ 10) + (literalJk j k).toNat)) ∧
  ∀ u : Unit24, literalJk (unitBits u 14 5) (unitBits u 19 5) = unitBits u 14 10

/-- The eight functions of two condition bits (40_branch_at_exit.md R73; THE TABLE IS THE SPEC'S RECOVERY from
garbled text, 90_conflicts.md C2 to C5, log 43) and the non-existent condition bits 24 to 31, which read 0
(R74). -/
def Obligations.ConditionFunctionsAndBits : Prop :=
  (∀ a b : Bool,
    CondFn.and.eval a b = (a && b) ∧ CondFn.taf.eval a b = (a && !b) ∧
    CondFn.faf.eval a b = (!a && !b) ∧ CondFn.or.eval a b = (a || b) ∧
    CondFn.tof.eval a b = (a || !b) ∧ CondFn.fof.eval a b = (!a || !b) ∧
    CondFn.eq.eval a b = decide (a = b) ∧ CondFn.xor.eval a b = decide (a ≠ b)) ∧
  ∀ (c : Word24) (n : Field5),
    (n.toNat ≤ 23 → cbit c n = c.getMsbD n.toNat) ∧ (24 ≤ n.toNat → cbit c n = false)

/-! ### Branches -/

/-- The step of every conditional branch BAND BTAF BFAF BOR BTOF BFOF BEQ BXOR (R76, R77, R88): skipped,
it only advances; else, successful with none outstanding, it becomes the outstanding branch with
eba = (X[k] + h) mod 2^24; else it only advances. Nothing else is written (ebaReg is the model's own,
log 24). -/
def Obligations.ConditionalBranchStep : Prop :=
  ∀ (f : CondFn) (flag : Bool) (i j k : Field5) (h : BitVec 24) (s : State), s.loc.toNat + 2 < 2 ^ 24 →
    exec (branchOf f flag i j k h) s = .next
      (if s.skip = .skipping ∧ flag = true then { s with loc := s.loc + 2 }
       else if s.bstate = .none ∧ f.eval (cbit s.c i) (cbit s.c j) = true then
         { s with loc := s.loc + 2, ieba := s.readX k + h, bstate := .outstanding .br, ebaReg := none }
       else { s with loc := s.loc + 2 })

/-- When each conditional branch is successful (R79 to R86), in the bits of c themselves: with none
outstanding and unskipped it completes, and a branch is outstanding afterwards exactly then. -/
def Obligations.BranchSuccessConditions : Prop :=
  ∀ (flag : Bool) (i j k : Field5) (h : BitVec 24) (s : State), s.loc.toNat + 2 < 2 ^ 24 →
    s.bstate = .none → ¬ (s.skip = .skipping ∧ flag = true) →
    let a := cbit s.c i = true
    let b := cbit s.c j = true
    let succeedsIff := fun (ins : Instr) (p : Prop) =>
      ∃ t, exec ins s = .next t ∧ (t.bstate = .outstanding .br ↔ p) ∧ (p → t.ieba = s.readX k + h)
    succeedsIff (.band flag i j k h) (a ∧ b) ∧ succeedsIff (.btaf flag i j k h) (a ∧ ¬ b) ∧
    succeedsIff (.bfaf flag i j k h) (¬ a ∧ ¬ b) ∧ succeedsIff (.bor flag i j k h) (a ∨ b) ∧
    succeedsIff (.btof flag i j k h) (a ∨ ¬ b) ∧ succeedsIff (.bfof flag i j k h) (¬ a ∨ ¬ b) ∧
    succeedsIff (.beq flag i j k h) (a ↔ b) ∧ succeedsIff (.bxor flag i j k h) (¬ (a ↔ b))

/-- The step of BU (R87): always successful, eba = X[k], i and j ignored. -/
def Obligations.UnconditionalBranchStep : Prop :=
  ∀ (flag : Bool) (i j k : Field5) (s : State), s.loc.toNat + 1 < 2 ^ 24 →
    exec (.bu flag i j k) s = .next
      (if s.skip = .skipping ∧ flag = true then { s with loc := s.loc + 1 }
       else if s.bstate = .none then
         { s with loc := s.loc + 1, ieba := s.readX k, bstate := .outstanding .br, ebaReg := none }
       else { s with loc := s.loc + 1 })

/-- The first successful branch governs (R88): while a branch is outstanding, the nine branches, IVIB and
SVC, and in supervisory mode SVR and IR, change nothing but loc (R118, R125, R128, R139), flagged or not.
THE SPEC'S OWN DECISION D11 (R26, R117; log 31): an outstanding IVIB, SVC, SVR or IR counts as an
outstanding successful branch, so that it too suppresses what follows. -/
def Obligations.OutstandingBranchGoverns : Prop :=
  ∀ (op : Op) (flag : Bool) (i j k : Field5) (h : BitVec 24) (s : State),
    (op ∈ [Op.band, .btaf, .bfaf, .bor, .btof, .bfof, .beq, .bxor, .bu, .ivib, .svc] ∨
      (op ∈ [Op.svr, .ir] ∧ s.mode.sup = .supervisory)) →
    s.bstate ≠ .none → s.loc.toNat + opLen op < 2 ^ 24 →
    exec (op.term flag i j k h) s = .next { s with loc := s.loc + BitVec.ofNat 24 (opLen op) }

/-! ### Skipping -/

/-- The skipping rule (42_skip.md R101): a flagged instruction other than EXIT and EXITL, while skipping,
only advances loc by its length; a flagged EXITL keeps its exit point alone (THE SPEC'S OWN READING of "may
be skipped", 41_exit.md R97, decision D29, log 30); of an EXIT the flag is ignored in every skip state
(R95); and while not skipping the flag of any instruction plays no part (R102). -/
def Obligations.SkippingRule : Prop :=
  ∀ (op : Op) (i j k : Field5) (h : BitVec 24) (s : State),
    (s.skip = .skipping → isExitOp op = false → s.loc.toNat + opLen op < 2 ^ 24 →
      exec (op.term true i j k h) s = .next { s with loc := s.loc + BitVec.ofNat 24 (opLen op) }) ∧
    (s.skip = .skipping → exec (.exitl true i j k) s = exec (.exit false i j k) s) ∧
    exec (.exit true i j k) s = exec (.exit false i j k) s ∧
    (s.skip = .notSkipping → exec (op.term true i j k h) s = exec (op.term false i j k h) s)

/-- The step of every SKIP: SKAND SKTAF SKFAF SKOR SKTOF SKFOF SKEQ SKXOR (R105). -/
def Obligations.SkipStep : Prop :=
  ∀ (f : CondFn) (flag : Bool) (i j k : Field5) (s : State), s.loc.toNat + 1 < 2 ^ 24 →
    exec (skipOf f flag i j k) s = .next
      (if s.skip = .skipping ∧ flag = true then { s with loc := s.loc + 1 }
       else { s with
         loc := s.loc + 1
         skip := if f.eval (cbit s.c i) (cbit s.c j) = true then .skipping else .notSkipping })

/-- When each SKIP gives skipping (R107 to R114), in the bits of c themselves. -/
def Obligations.SkipConditions : Prop :=
  ∀ (flag : Bool) (i j k : Field5) (s : State), s.loc.toNat + 1 < 2 ^ 24 →
    ¬ (s.skip = .skipping ∧ flag = true) →
    let a := cbit s.c i = true
    let b := cbit s.c j = true
    let skipsIff := fun (ins : Instr) (p : Prop) => ∃ t, exec ins s = .next t ∧ (t.skip = .skipping ↔ p)
    skipsIff (.skand flag i j k) (a ∧ b) ∧ skipsIff (.sktaf flag i j k) (a ∧ ¬ b) ∧
    skipsIff (.skfaf flag i j k) (¬ a ∧ ¬ b) ∧ skipsIff (.skor flag i j k) (a ∨ b) ∧
    skipsIff (.sktof flag i j k) (a ∨ ¬ b) ∧ skipsIff (.skfof flag i j k) (¬ a ∨ ¬ b) ∧
    skipsIff (.skeq flag i j k) (a ↔ b) ∧ skipsIff (.skxor flag i j k) (¬ (a ↔ b))

/-- The skip state is altered only as the table of R103 shows: by an executed SKIP, by the first function
of an EXITL and by SVC's EXIT to not skipping, by an interruption to not skipping, by SVR's and IR's EXIT
to what S11[3:9] designates, and by SCAN to what the scan-in data give. -/
def Obligations.SkipStateAlteredOnlyAsTabled : Prop :=
  ∀ (i : Instr) (s t : State), exec i s = .next t → t.skip ≠ s.skip →
    (∃ f flag a b k, i = skipOf f flag a b k ∧ s.ignores flag = false ∧
      t.skip = if f.eval (cbit s.c a) (cbit s.c b) = true then .skipping else .notSkipping) ∨
    (∃ flag a b k, i = .exitl flag a b k ∧ s.ignores flag = false ∧ t.skip = .notSkipping) ∨
    (isExit i ∧
      ((s.bstate = .outstanding .svc ∧ t.skip = .notSkipping) ∨
       ((s.bstate = .outstanding .svr ∨ s.bstate = .outstanding .ir) ∧
         t.skip = (decodeBsm s.inst.bsmCode (s11Bsm s.s11)).skip))) ∨
    s.interruptedTo i t ∨
    (s.loadsMachine i ∧ ∃ block, t.skip = (Config.scanLayout block).skip ∧ ∃ f a b k h, i = .scan f a b k h ∧
      s.memory.memRead (s.alternateKey .supervisory) (s.scanAddress k h) s.inst.scanUnits.val = some block)

/-! ### The exit point -/

/-- EXIT with no branch outstanding only advances, and with an ordinary branch outstanding and its target
present it goes there and uses the branch up (41_exit.md R92), whatever its flag (R95) and its fields. -/
def Obligations.ExitTakesTheBranch : Prop :=
  ∀ (flag : Bool) (i j k : Field5) (s : State),
    (s.bstate = .none → s.loc.toNat + 1 < 2 ^ 24 →
      exec (.exit flag i j k) s = .next { s with loc := s.loc + 1 }) ∧
    (s.bstate = .outstanding .br → s.isPresent (s.normalKey s.mode.sup) s.ieba = true →
      exec (.exit flag i j k) s = .next { s with loc := s.ieba, bstate := .none, ebaReg := none })

/-- THE MODEL'S CHOICE among those of R94 and D19 (logs 17 and 40). An EXIT at which the target of the
outstanding branch is missing, be it an ordinary branch, an IVIB, an SVR or an IR (R149): the pending
actions of the kind are done, MI is set and the branch is used up. Then, if the mode now in force is
enabled, the interruption is taken at once as IC does it, the return address being free; if it is disabled
the run stops with a fault that names the EXIT. The two premises leave out what the model refuses instead:
an SVR that would restore an outstanding branch (log 26), and an IR that would restore an IVIB or SVR whose
register has been written (log 24). -/
def Obligations.MissingTargetInterruptsOrStops : Prop :=
  ∀ (flag : Bool) (i j k : Field5) (s : State), s.exitTargetMissing = true →
    (s.bstate = .outstanding .svr → s.bsmAtExit.branch = .none) →
    (s.bstate = .outstanding .ir → watchedBranch s.bsmAtExit.branch = true → s.savedEbaWritten = none) →
    let mode := decodeMode s.inst.modeEnc s.modeAtExit
    (mode.dis = .enabled → s.isPresent (s.normalKey .supervisory) 0 = true →
      ∃ t, exec (.exit flag i j k) s = .next t ∧ t.mode = interruptionMode ∧
        s11IcMode t.s11 = s.modeAtExit ∧ s11Bsm t.s11 = encodeBsm s.inst.bsmCode s.bsmAtExit ∧
        s11SvcMode t.s11 = s11SvcMode s.s11 ∧ s11Rest t.s11 = s11Rest s.s11 ∧
        (s.bsmAtExit.branch ≠ .none → t.s10 = s.iebaAtExit) ∧
        t = { s with
          exc := { s.exc with mi := true }, s9 := t.s9, s10 := t.s10, s11 := t.s11, bstate := .none,
          skip := .notSkipping, carry := s.inst.noCarry, ieba := s.iebaAtExit, ib := s.ibAtExit,
          ebaReg := none, savedEbaReg := t.savedEbaReg, savedEbaWritten := none, loc := 0 }) ∧
    (mode.dis = .disabled →
      ∃ u, exec (.exit flag i j k) s = .fault (.missingTarget s.loc u) ∧
        s11Mode u.s11 = s.modeAtExit ∧ s11Bsm u.s11 = s11Bsm s.s11 ∧ s11IcMode u.s11 = s11IcMode s.s11 ∧
        s11SvcMode u.s11 = s11SvcMode s.s11 ∧ s11Rest u.s11 = s11Rest s.s11 ∧
        u = { s with
          exc := { s.exc with mi := true }, s11 := u.s11, bstate := s.bsmAtExit.branch,
          skip := s.bsmAtExit.skip, carry := s.bsmAtExit.carry, ieba := s.iebaAtExit, ib := s.ibAtExit,
          ebaReg := u.ebaReg })

/-- EXITL, not skipped, is stop skipping, then MLX, then EXIT (R96); MLX is an uninterpreted function that
writes X registers only (R98, log 28). It completes where EXIT then does. If MLX changes the register an
outstanding IVIB or SVR formed its eba from, the model refuses (R131, log 24). loadX replaces X and records,
in the model's own savedEbaWritten, whether an interrupted IVIB's or SVR's register changed. -/
def Obligations.ExitlIsThreeFunctions : Prop :=
  ∀ (flag : Bool) (i j k : Field5) (s : State), ¬ (s.skip = .skipping ∧ flag = true) →
    let t := ({ s with skip := .notSkipping } : State).loadX
      (Config.mlx i j k { s.image with skip := .notSkipping })
    (exec (.exitl flag i j k) s =
      match s.ebaReg with
      | none => exec (.exit false i j k) t
      | some r =>
        if (s.bstate = .outstanding .ivib ∨ s.bstate = .outstanding .svr) ∧ t.readX r ≠ s.readX r
        then .refused (.ebaRegisterWritten r) else exec (.exit false i j k) t) ∧
    (s.bstate = .none → s.loc.toNat + 1 < 2 ^ 24 →
      exec (.exitl flag i j k) s = .next { t with loc := s.loc + 1 }) ∧
    (s.bstate = .outstanding .br → s.isPresent (s.normalKey s.mode.sup) s.ieba = true →
      exec (.exitl flag i j k) s = .next { t with loc := s.ieba, bstate := .none, ebaReg := none })

/-! ### IVIB, PAUSE, PI -/

/-- IVIB at the instruction (43_special_branch.md R118), unskipped: with none outstanding it becomes the
outstanding branch with eba = (X[k] + h) mod 2^24; else it only advances. -/
def Obligations.IvibStep : Prop :=
  ∀ (flag : Bool) (i j k : Field5) (h : BitVec 24) (s : State), s.loc.toNat + 2 < 2 ^ 24 →
    ¬ (s.skip = .skipping ∧ flag = true) →
    exec (.ivib flag i j k h) s = .next
      (if s.bstate = .none then
        { s with loc := s.loc + 2, ieba := s.readX k + h, bstate := .outstanding .ivib, ebaReg := some k }
       else { s with loc := s.loc + 2 })

/-- IVIB at its EXIT (R119): the instruction buffers are emptied and the branch is taken. -/
def Obligations.IvibEmptiesBuffersAtExit : Prop :=
  ∀ (flag : Bool) (i j k : Field5) (s : State), s.bstate = .outstanding .ivib →
    s.isPresent (s.normalKey s.mode.sup) s.ieba = true →
    exec (.exit flag i j k) s = .next { s with ib := [], bstate := .none, ebaReg := none, loc := s.ieba }

/-- PAUSE (R120), unskipped: with no interruption that can be taken it only advances; else the interruption
is taken now, with return address next: the IC of the machine standing at the next instruction. THE SPEC'S
OWN DECISION D17 (60_exceptions.md R152, R155; log 33): "can be taken" is an exception bit set or the outside
asking, while the mode is enabled; disabled, a PAUSE with something pending only advances. -/
def Obligations.PauseStep : Prop :=
  ∀ (flag : Bool) (i j k : Field5) (s : State), s.loc.toNat + 1 < 2 ^ 24 →
    ¬ (s.skip = .skipping ∧ flag = true) →
    (¬ (s.mode.dis = .enabled ∧ (excAny s.exc = true ∨ s.outsideAsks = true)) →
      exec (.pause flag i j k) s = .next { s with loc := s.loc + 1 }) ∧
    (s.mode.dis = .enabled → (excAny s.exc = true ∨ s.outsideAsks = true) →
      exec (.pause flag i j k) s = exec .ic { s with loc := s.loc + 1 })

/-- PI (R121), unskipped in enabled mode: X[i] becomes the sign-extended literal, the PI bit is set, and
the interruption is taken before the next instruction, to which S9 points (R153). THE MODEL'S CHOICE (log
25): PI and the IC that R153 calls the very next step are one step here. The last premise leaves out the
write that the model refuses (R131, D9; log 24). -/
def Obligations.PiStep : Prop :=
  ∀ (flag : Bool) (i j k : Field5) (s : State), s.loc.toNat + 1 < 2 ^ 24 →
    ¬ (s.skip = .skipping ∧ flag = true) → s.mode.dis = .enabled →
    s.isPresent (s.normalKey .supervisory) 0 = true →
    ¬ ((s.bstate = .outstanding .ivib ∨ s.bstate = .outstanding .svr) ∧ s.ebaReg = some i) →
    ∃ t, exec (.pi flag i j k) s = .next t ∧
      exec .ic { s.writeX i (sext24 (literalJk j k)) with
        exc := { s.exc with pi := true }, loc := s.loc + 1 } = .next t ∧
      t.readX i = sext24 (literalJk j k) ∧ (∀ n, n ≠ i → t.readX n = s.readX n) ∧
      t.exc = { s.exc with pi := true } ∧ t.s9 = s.loc + 1 ∧ t.justInterrupted ∧
      t.c = s.c ∧ t.ieba = s.ieba ∧ t.ib = s.ib ∧ t.memory = s.memory ∧
      s11IcMode t.s11 = s11Mode s.s11 ∧ s11SvcMode t.s11 = s11SvcMode s.s11 ∧ s11Rest t.s11 = s11Rest s.s11

/-- THE SPEC'S OWN DECISIONS D18 and D9 (logs 24, 25): PI is refused in disabled mode (R122), and when it
writes the X register from which an outstanding IVIB or SVR formed its eba (R131), in either mode. -/
def Obligations.PiRefusals : Prop :=
  ∀ (flag : Bool) (i j k : Field5) (s : State), ¬ (s.skip = .skipping ∧ flag = true) →
    ((s.bstate = .outstanding .ivib ∨ s.bstate = .outstanding .svr) → s.ebaReg = some i →
      exec (.pi flag i j k) s = .refused (.ebaRegisterWritten i)) ∧
    (¬ ((s.bstate = .outstanding .ivib ∨ s.bstate = .outstanding .svr) ∧ s.ebaReg = some i) →
      s.mode.dis = .disabled → exec (.pi flag i j k) s = .refused .piWhileDisabled)

/-! ### Supervisor call and return -/

/-- SVC at the instruction (R124, R125), unskipped: with none outstanding X[i] becomes the sign-extended
literal and SVC the outstanding branch; else it is suppressed whole. (writeX also records, in the model's
own savedEbaWritten, a write of an interrupted IVIB's or SVR's register, log 24.) -/
def Obligations.SvcStep : Prop :=
  ∀ (flag : Bool) (i j k : Field5) (s : State), s.loc.toNat + 1 < 2 ^ 24 →
    ¬ (s.skip = .skipping ∧ flag = true) →
    exec (.svc flag i j k) s = .next
      (if s.bstate = .none then
        { s.writeX i (sext24 (literalJk j k)) with loc := s.loc + 1, bstate := .outstanding .svc }
       else { s with loc := s.loc + 1 })

/-- SVC at its EXIT (R127): steps 2 to 6, and everything else as it was. S9 is not written. -/
def Obligations.SvcAtExit : Prop :=
  ∀ (flag : Bool) (i j k : Field5) (s : State), s.bstate = .outstanding .svc →
    s.isPresent (s.normalKey .supervisory) 256 = true →
    ∃ t, exec (.exit flag i j k) s = .next t ∧
      s11SvcMode t.s11 = s11Mode s.s11 ∧
      t.mode = { s.mode with sup := .supervisory, conc := .concurrent } ∧
      s11Bsm t.s11 = encodeBsm s.inst.bsmCode { branch := .none, skip := s.skip, carry := s.carry } ∧
      s11IcMode t.s11 = s11IcMode s.s11 ∧ s11Rest t.s11 = s11Rest s.s11 ∧
      t = { s with
        s11 := t.s11, bstate := .none, skip := .notSkipping, carry := s.inst.noCarry, ebaReg := none, loc := 256 }

/-- SVR at the instruction (R128), unskipped in supervisory mode: with none outstanding it becomes the
outstanding branch with eba = (X[k] + h) mod 2^24; else it only advances. -/
def Obligations.SvrStep : Prop :=
  ∀ (flag : Bool) (i j k : Field5) (h : BitVec 24) (s : State), s.loc.toNat + 2 < 2 ^ 24 →
    ¬ (s.skip = .skipping ∧ flag = true) → s.mode.sup = .supervisory →
    exec (.svr flag i j k h) s = .next
      (if s.bstate = .none then
        { s with loc := s.loc + 2, ieba := s.readX k + h, bstate := .outstanding .svr, ebaReg := some k }
       else { s with loc := s.loc + 2 })

/-- SVR at its EXIT (R129): mode from S11[13:15], skip and carry from S11[3:9], the branch to the eba under
the normal key of the new mode. Where S11[3:9] designates an outstanding branch the model refuses, the
spec's own decision D10 (log 26). -/
def Obligations.SvrAtExit : Prop :=
  ∀ (flag : Bool) (i j k : Field5) (s : State), s.bstate = .outstanding .svr →
    let b := decodeBsm s.inst.bsmCode (s11Bsm s.s11)
    let m := decodeMode s.inst.modeEnc (s11SvcMode s.s11)
    (b.branch = .none → s.isPresent (s.normalKey m.sup) s.ieba = true →
      ∃ t, exec (.exit flag i j k) s = .next t ∧ t.mode = m ∧
        s11Mode t.s11 = s11SvcMode s.s11 ∧ s11Bsm t.s11 = s11Bsm s.s11 ∧
        s11IcMode t.s11 = s11IcMode s.s11 ∧ s11SvcMode t.s11 = s11SvcMode s.s11 ∧
        s11Rest t.s11 = s11Rest s.s11 ∧
        t = { s with
          s11 := t.s11, bstate := .none, skip := b.skip, carry := b.carry, ebaReg := none, loc := s.ieba }) ∧
    (b.branch ≠ .none → exec (.exit flag i j k) s = .refused .svrRestoresOutstandingBranch)

/-! ### Interruption and return -/

/-- IC (R134), its seven steps and its frame. S9 is the location it is inserted before (R133). S10 is the
internal eba while a branch is outstanding, and nothing is said of it otherwise (log 16). -/
def Obligations.InterruptCall : Prop :=
  ∀ s : State, s.isPresent (s.normalKey .supervisory) 0 = true →
    ∃ t, exec .ic s = .next t ∧
      s11IcMode t.s11 = s11Mode s.s11 ∧
      t.mode = { sup := .supervisory, dis := .disabled, conc := .concurrent } ∧
      (s.bstate ≠ .none → t.s10 = s.ieba) ∧
      s11Bsm t.s11 =
        encodeBsm s.inst.bsmCode { branch := s.bstate, skip := s.skip, carry := s.carry } ∧
      s11SvcMode t.s11 = s11SvcMode s.s11 ∧ s11Rest t.s11 = s11Rest s.s11 ∧
      t = { s with
        s9 := s.loc, s10 := t.s10, s11 := t.s11, bstate := .none, skip := .notSkipping,
        carry := s.inst.noCarry, ebaReg := none, savedEbaReg := s.ebaReg, savedEbaWritten := none, loc := 0 }

/-- IR at the instruction (R136), unskipped in supervisory mode. -/
def Obligations.IrStep : Prop :=
  ∀ (flag : Bool) (i j k : Field5) (s : State), s.loc.toNat + 1 < 2 ^ 24 →
    ¬ (s.skip = .skipping ∧ flag = true) → s.mode.sup = .supervisory →
    exec (.ir flag i j k) s = .next
      (if s.bstate = .none then { s with loc := s.loc + 1, bstate := .outstanding .ir }
       else { s with loc := s.loc + 1 })

/-- IR at its EXIT (R137): mode from S11[10:12], branch-skip-MPC state from S11[3:9], the internal eba from
S10, and the branch to S9 under the normal key of the new mode, neither effected by the others. The premise
on savedEbaWritten leaves out the IR that the model refuses (R131, D9; log 24). -/
def Obligations.IrAtExit : Prop :=
  ∀ (flag : Bool) (i j k : Field5) (s : State), s.bstate = .outstanding .ir →
    let b := decodeBsm s.inst.bsmCode (s11Bsm s.s11)
    let m := decodeMode s.inst.modeEnc (s11IcMode s.s11)
    s.isPresent (s.normalKey m.sup) s.s9 = true →
    (watchedBranch b.branch = true → s.savedEbaWritten = none) →
      ∃ t, exec (.exit flag i j k) s = .next t ∧ t.mode = m ∧
        s11Mode t.s11 = s11IcMode s.s11 ∧ s11Bsm t.s11 = s11Bsm s.s11 ∧
        s11IcMode t.s11 = s11IcMode s.s11 ∧ s11SvcMode t.s11 = s11SvcMode s.s11 ∧
        s11Rest t.s11 = s11Rest s.s11 ∧
        t = { s with
          s11 := t.s11, bstate := b.branch, skip := b.skip, carry := b.carry, ieba := s.s10,
          ebaReg := t.ebaReg, loc := s.s9 }

/-- An interruption between two instructions, returned from by IR and EXIT with S9, S10 and S11 left as IC
wrote them, is invisible to the interrupted program (60_exceptions.md R163): it goes on at the same
location in the same mode with the same branch, skip and carry state and internal eba. The premise is the
round-trip law of 10_state.md R30 for the state that was saved. -/
def Obligations.InterruptionIsInvisible : Prop :=
  ∀ s : State, s.isPresent (s.normalKey .supervisory) 0 = true →
    s.isPresent (s.normalKey s.mode.sup) s.loc = true →
    decodeBsm s.inst.bsmCode (encodeBsm s.inst.bsmCode s.bsm) = s.bsm →
    ∃ t u v, exec .ic s = .next t ∧ exec (.ir false 0 0 0) t = .next u ∧
      exec (.exit false 0 0 0) u = .next v ∧
      v.mode = s.mode ∧ v.loc = s.loc ∧ v.bstate = s.bstate ∧ v.skip = s.skip ∧ v.carry = s.carry ∧
      (s.bstate ≠ .none → v.ieba = s.ieba) ∧ v.x = s.x ∧ v.c = s.c ∧ v.exc = s.exc ∧
      v.memory = s.memory ∧ s11SvcMode v.s11 = s11SvcMode s.s11

/-- A supervisor call and its return (R159, R161): SVC and EXIT go to location 256 in supervisory mode with
the literal in X[i]; SVR and EXIT there, with S11 as SVC left it, come back to X[k] + h in the caller's
mode with the caller's skip and carry state. Premises: the round-trip law of R30 for what SVC saves, and
both locations present. -/
def Obligations.SupervisorCallReturns : Prop :=
  ∀ (i j k r : Field5) (h : BitVec 24) (s : State), s.bstate = .none → s.loc.toNat + 1 < 2 ^ 24 →
    s.isPresent (s.normalKey .supervisory) 256 = true →
    s.isPresent (s.normalKey s.mode.sup) ((s.writeX i (sext24 (literalJk j k))).readX r + h) = true →
    decodeBsm s.inst.bsmCode (encodeBsm s.inst.bsmCode { branch := .none, skip := s.skip, carry := s.carry }) =
      { branch := .none, skip := s.skip, carry := s.carry } →
    ∃ a t u v, exec (.svc false i j k) s = .next a ∧ exec (.exit false 0 0 0) a = .next t ∧
      t.loc = 256 ∧ t.mode = { s.mode with sup := .supervisory, conc := .concurrent } ∧
      t.readX i = sext24 (literalJk j k) ∧
      exec (.svr false 0 0 r h) t = .next u ∧ exec (.exit false 0 0 0) u = .next v ∧
      v.mode = s.mode ∧ v.loc = (s.writeX i (sext24 (literalJk j k))).readX r + h ∧
      v.bstate = .none ∧ v.skip = s.skip ∧ v.carry = s.carry ∧ v.s9 = s.s9 ∧ v.s10 = s.s10 ∧
      v.c = s.c ∧ v.memory = s.memory

/-! ### Privilege -/

/-- THE SPEC'S OWN DECISIONS D15 and D16 (log 27): SVR, IR and SCAN, unskipped in problem mode, set PV and
do nothing else but advance (R130, R138, R142, R150); for an SVR or IR that an outstanding branch
suppresses, whether PV is set is free. -/
def Obligations.PrivilegedInstructionsWithheld : Prop :=
  ∀ (op : Op) (flag : Bool) (i j k : Field5) (h : BitVec 24) (s : State), op ∈ [Op.svr, .ir, .scan] →
    ¬ (s.skip = .skipping ∧ flag = true) → s.mode.sup = .problem → s.loc.toNat + opLen op < 2 ^ 24 →
    ∃ pv : Bool, exec (op.term flag i j k h) s = .next
        { s with loc := s.loc + BitVec.ofNat 24 (opLen op), exc := { s.exc with pv := pv } } ∧
      (s.exc.pv = true → pv = true) ∧ (s.bstate = .none ∨ op = .scan → pv = true)

/-- A problem program is confined: in problem mode, with no SVR or IR outstanding, no instruction alters
S9, S10 or S11, hence not the mode, or makes an SVR or IR outstanding, except by entering the supervisor at
location 0 (an interruption) or at location 256 (SVC's EXIT) (60_exceptions.md R158, R159, R165, R167;
10_state.md R21). THIS RESTS ON THE SPEC'S OWN DECISION D15 (log 27): in problem mode SVR, IR and SCAN
perform none of their functions. -/
def Obligations.ProblemModeIsConfined : Prop :=
  ∀ (i : Instr) (s t : State), exec i s = .next t → s.mode.sup = .problem →
    s.bstate ≠ .outstanding .svr → s.bstate ≠ .outstanding .ir →
    (t.s9 = s.s9 ∧ t.s10 = s.s10 ∧ t.s11 = s.s11 ∧ t.mode = s.mode ∧
      t.bstate ≠ .outstanding .svr ∧ t.bstate ≠ .outstanding .ir) ∨ s.interruptedTo i t ∨
    (isExit i ∧ s.bstate = .outstanding .svc ∧ t.loc = 256 ∧ t.s9 = s.s9 ∧ t.s10 = s.s10 ∧
      t.mode = { s.mode with sup := .supervisory, conc := .concurrent })

/-! ### SCAN -/

/-- The address of SCAN (43_special_branch.md R141): the sum with its nine low-order bits 0, that is
sum - (sum mod 512); and the block is at most 512 units, so that it never passes the top of storage. -/
def Obligations.ScanAddressIsAligned : Prop :=
  ∀ (s : State) (k : Field5) (h : BitVec 24),
    (s.scanAddress k h).toNat =
      (s.readX k + h).toNat - (s.readX k + h).toNat % 512 ∧ (s.scanAddress k h).toNat % 512 = 0 ∧
    s.inst.scanUnits.val ≤ 512 ∧ (s.scanAddress k h).toNat + s.inst.scanUnits.val ≤ 2 ^ 24

/-- SCAN in supervisory mode, unskipped and with its block present, replaces the whole state of the
processor by what the block specifies (R140, R144, R145), branch outstanding or not (R146), at
ea = (X[k] + h) with its low nine bits 0, under the alternate key. ScanLayout is uninterpreted (log 29).
Storage and the parameters stay. -/
def Obligations.ScanLoadsTheMachine : Prop :=
  ∀ (flag : Bool) (i j k : Field5) (h : BitVec 24) (s : State) (block : List Unit24),
    ¬ (s.skip = .skipping ∧ flag = true) → s.mode.sup = .supervisory →
    s.memory.memRead (s.alternateKey .supervisory) ((s.readX k + h) &&& 0xFFFE00#24) s.inst.scanUnits.val =
      some block →
    ∃ t, exec (.scan flag i j k h) s = .next t ∧ t.image = Config.scanLayout block ∧
      t.memory = s.memory ∧ t.inst = s.inst ∧ t.outsideAsks = s.outsideAsks ∧ t.schedule = s.schedule ∧
      t.tick = s.tick

/-- THE MODEL'S CHOICE among those of D19 (log 18). A SCAN whose block is missing sets MA and loads
nothing (R143); while enabled the interruption is taken at once, the return address being free; while
disabled the run stops with a fault that names the SCAN. -/
def Obligations.ScanOfMissingBlock : Prop :=
  ∀ (flag : Bool) (i j k : Field5) (h : BitVec 24) (s : State),
    ¬ (s.skip = .skipping ∧ flag = true) → s.mode.sup = .supervisory →
    s.memory.memRead (s.alternateKey .supervisory) ((s.readX k + h) &&& 0xFFFE00#24) s.inst.scanUnits.val =
      none →
    (s.mode.dis = .enabled → s.isPresent (s.normalKey .supervisory) 0 = true →
      ∃ t, exec (.scan flag i j k h) s = .next t ∧ t.mode = interruptionMode ∧
        s11IcMode t.s11 = s11Mode s.s11 ∧ s11Bsm t.s11 = encodeBsm s.inst.bsmCode s.bsm ∧
        s11SvcMode t.s11 = s11SvcMode s.s11 ∧ s11Rest t.s11 = s11Rest s.s11 ∧
        (s.bstate ≠ .none → t.s10 = s.ieba) ∧
        t = { s with
          exc := { s.exc with ma := true }, s9 := t.s9, s10 := t.s10, s11 := t.s11, bstate := .none,
          skip := .notSkipping, carry := s.inst.noCarry, ebaReg := none, savedEbaReg := s.ebaReg, savedEbaWritten := none,
          loc := 0 }) ∧
    (s.mode.dis = .disabled → exec (.scan flag i j k h) s =
      .fault (.missingScanBlock s.loc { s with exc := { s.exc with ma := true } }))

/-! ### Whole-machine frames -/

/-- No instruction in scope writes storage (20_memory.md R37), nor a parameter: every unit under every
key reads as before. -/
def Obligations.StorageIsNeverWritten : Prop :=
  ∀ (i : Instr) (s t : State), exec i s = .next t →
    t.memory = s.memory ∧ t.inst = s.inst ∧
    ∀ (key : Key) (a : Addr), t.memory.read (location key a) = s.memory.read (location key a)

/-- Which instructions write X (10_state.md R11): PI and SVC write the register of their i-field alone,
EXITL through MLX, SCAN; nothing else does. c is written by SCAN alone (R16). -/
def Obligations.RegistersWrittenOnlyAsListed : Prop :=
  ∀ (i : Instr) (s t : State), exec i s = .next t → ¬ s.loadsMachine i →
    t.c = s.c ∧
    (t.x = s.x ∨ (∃ f a b k, i = .exitl f a b k ∧ s.ignores f = false) ∨
      ∃ f a b k, (i = .pi f a b k ∨ i = .svc f a b k) ∧ s.ignores f = false ∧
        t.readX a = sext24 (literalJk b k) ∧ ∀ n, n ≠ a → t.readX n = s.readX n)

/-- S9 and S10 are written by IC and SCAN alone (R19, R20), S11 by an interruption, by SCAN and by the EXIT
of an SVC, SVR or IR (R21); S11[16:23] by SCAN alone. -/
def Obligations.SpecialRegistersWrittenOnlyAsListed : Prop :=
  ∀ (i : Instr) (s t : State), exec i s = .next t → ¬ s.loadsMachine i →
    s11Rest t.s11 = s11Rest s.s11 ∧
    (s.interruptedTo i t ∨ (t.s9 = s.s9 ∧ t.s10 = s.s10 ∧
      (t.s11 = s.s11 ∨ (isExit i ∧
        (s.bstate = .outstanding .svc ∨ s.bstate = .outstanding .svr ∨ s.bstate = .outstanding .ir)))))

/-- THE SPEC'S OWN DECISION D37 (log 32): no instruction but a SCAN that loads the processor clears an
exception bit (60_exceptions.md R148), and a bit is set only as R147 tables: MI by an EXIT or EXITL whose
target is missing, MA by a SCAN whose block is missing, PI by PI, PV by SVR, IR or SCAN in problem mode. -/
def Obligations.ExceptionBitsOnlySet : Prop :=
  ∀ (i : Instr) (s t : State), exec i s = .next t → ¬ s.loadsMachine i →
    ((s.exc.mi = true → t.exc.mi = true) ∧ (s.exc.ma = true → t.exc.ma = true) ∧
     (s.exc.pi = true → t.exc.pi = true) ∧ (s.exc.pv = true → t.exc.pv = true)) ∧
    (t.exc.mi ≠ s.exc.mi → isExit i ∧ s.exitTargetMissing = true) ∧
    (t.exc.ma ≠ s.exc.ma → ∃ f a b k h, i = .scan f a b k h ∧ s.mode.sup = .supervisory ∧
      s.memory.memRead (s.alternateKey .supervisory) (s.scanAddress k h) s.inst.scanUnits.val = none) ∧
    (t.exc.pi ≠ s.exc.pi → ∃ f a b k, i = .pi f a b k ∧ s.ignores f = false) ∧
    (t.exc.pv ≠ s.exc.pv → s.mode.sup = .problem ∧
      ∃ f a b k h, (i = .svr f a b k h ∨ i = .ir f a b k ∨ i = .scan f a b k h) ∧ s.ignores f = false)

/-- Sequential advance (10_state.md R13): an instruction that is executed leaves loc at loc + LEN, unless it
is an EXIT or EXITL with a branch outstanding, an interruption is taken, or a SCAN loads loc. -/
def Obligations.SequentialAdvance : Prop :=
  ∀ (op : Op) (flag : Bool) (i j k : Field5) (h : BitVec 24) (s t : State),
    exec (op.term flag i j k h) s = .next t →
    ¬ (isExitOp op = true ∧ s.bstate ≠ .none) → ¬ s.loadsMachine (op.term flag i j k h) →
    t.loc.toNat = s.loc.toNat + opLen op ∨ s.interruptedTo (op.term flag i j k h) t

/-! ### Refusals of the model (60_exceptions.md R170) -/

/-- THE SPEC'S OWN DECISION D4 (log 20): sequential advance past 2^24 - 1 is refused (R14), by every
instruction that would advance. -/
def Obligations.PastTopOfStorageRefused : Prop :=
  ∀ (op : Op) (flag : Bool) (i j k : Field5) (h : BitVec 24) (s : State), 2 ^ 24 ≤ s.loc.toNat + opLen op →
    (op ∉ [Op.exit, .exitl, .pi, .scan] → exec (op.term flag i j k h) s = .refused .pastTopOfStorage) ∧
    (isExitOp op = true → s.bstate = .none → exec (op.term flag i j k h) s = .refused .pastTopOfStorage) ∧
    (op = .pi → s.ignores flag = true ∨ (s.mode.dis = .enabled ∧ s.bstate = .none) →
      exec (op.term flag i j k h) s = .refused .pastTopOfStorage) ∧
    (op = .scan → s.ignores flag = true ∨ s.mode.sup = .problem →
      exec (op.term flag i j k h) s = .refused .pastTopOfStorage)

/-- THE SPEC'S OWN DECISION D19 (log 19): a missing location 0 at IC, and a missing location 256 at SVC's
EXIT, are refused (60_exceptions.md R149). -/
def Obligations.MissingFixedLocationRefused : Prop :=
  ∀ (flag : Bool) (i j k : Field5) (s : State),
    (s.isPresent (s.normalKey .supervisory) 0 = false → exec .ic s = .refused (.missingFixedLocation 0)) ∧
    (s.bstate = .outstanding .svc → s.isPresent (s.normalKey .supervisory) 256 = false →
      exec (.exit flag i j k) s = .refused (.missingFixedLocation 256))

/-! ### The step: fetch, decode, interruption -/

/-- A step that takes no interruption runs the instruction that storage holds at loc under the normal key of
the current mode: exec of it, in the state after the moment's inputs and prefetch (20_memory.md R41,
30_encoding.md R71). The fetch is answered by storage, either because the moment picks no buffered unit or
because the buffers agree with storage (R49). -/
def Obligations.StepRunsDecodedInstruction : Prop :=
  ∀ (s : State) (i : Instr), s.takesIc = false → s.inst.opc.Injective → i.wellFormed = true →
    s.memory.memRead (s.normalKey s.mode.sup) s.loc i.units = some (encode s.inst.opc i) →
    (s.inst.longAligned = true → i.units = 2 → s.loc.toNat % 2 = 0) →
    (s.moment.fetchesStorage ∨ s.Coherent) →
    step s = exec i (s.begin.prefetch s.moment)

/-- A table word placed where the machine fetches is run by the very next step (log 14). -/
def Obligations.PlacedWordIsRun : Prop :=
  ∀ (s : State) (nbits w : Nat) (i : Instr), decodeTableWord nbits w = some i →
    s.inst.opc = Opc.provisional → s.inst.longAligned = false → s.loc.toNat + 2 ≤ 2 ^ 24 →
    step (s.withFetchWord nbits w) = exec i (s.withFetchWord nbits w).begin

/-- THE SPEC'S OWN DECISION D31 (log 22): an operation code outside the map is refused, never a no-op
(30_encoding.md R65). -/
def Obligations.UnknownOperationCodeRefused : Prop :=
  ∀ (s : State) (u : Unit24), s.takesIc = false → s.moment.fetchesStorage →
    s.memory.read (location (s.normalKey s.mode.sup) s.loc) = some u →
    (∀ op : Op, s.inst.opc.code op ≠ operationField u) →
    step s = .refused (.unknownOperationCode (operationField u))

/-- THE SPEC'S OWN DECISIONS D5, D4 and D19 (logs 19, 20, 21): a missing unit at loc (R41), a long
instruction at an odd address under LONG_ALIGNED (R43), one whose second unit would lie past the top (R14),
and one whose second unit is missing, are refused. -/
def Obligations.FetchRefusals : Prop :=
  ∀ s : State, s.takesIc = false → s.moment.fetchesStorage →
    let key := s.normalKey s.mode.sup
    (s.memory.read (location key s.loc) = none → step s = .refused (.missingInstructionUnit key s.loc)) ∧
    ∀ u, s.memory.read (location key s.loc) = some u → lengthOf s.inst.opc u = some 2 →
      (s.inst.longAligned = true → s.loc.toNat % 2 = 1 → step s = .refused (.oddLongInstruction s.loc)) ∧
      (s.inst.longAligned = false → s.loc.toNat = 2 ^ 24 - 1 → step s = .refused .pastTopOfStorage) ∧
      (s.inst.longAligned = false ∨ s.loc.toNat % 2 = 0 → s.loc.toNat < 2 ^ 24 - 1 →
        s.memory.read (location key (s.loc + 1)) = none →
        step s = .refused (.missingInstructionUnit key (s.loc + 1)))

/-- THE SPEC'S OWN DECISION D17 (logs 15, 33): an interruption is taken before an instruction only when an
exception bit is set or the outside asks, and the mode is enabled; then, if the moment says so, the step is
the IC with return address loc; while disabled no IC is inserted (R152, R155). -/
def Obligations.InterruptionBetweenInstructions : Prop :=
  ∀ s : State,
    (s.moment.takeIc = true → s.mode.dis = .enabled →
      (excAny s.begin.exc = true ∨ s.moment.asks = true) → step s = exec .ic s.begin) ∧
    ((s.mode.dis = .disabled ∨ s.moment.takeIc = false ∨
        (excAny s.begin.exc = false ∧ s.moment.asks = false)) →
      ∀ i, s.begin.fetch s.moment = .ok i → step s = exec i (s.begin.prefetch s.moment))

/-- With buffers that agree with storage, whichever of them answers a fetch the instruction is the one in
storage (20_memory.md R47, R49). -/
def Obligations.CoherentBuffersAreUnobservable : Prop :=
  ∀ (s : State) (m : Moment), s.Coherent → s.fetch m = s.fetch { m with pick0 := none, pick1 := none }

/-! ### Invariants -/

/-- Every step keeps the model's invariant: storage in its canonical form, the watched register recorded
only while an IVIB or SVR is outstanding, and only the interrupted program's register ever recorded as
written (log 24). -/
def Obligations.InvariantKeptByEveryStep : Prop :=
  ∀ s s' : State, s.Inv → step s = .next s' → s'.Inv

/-- Every step keeps the buffers in agreement with storage (20_memory.md R49), unless it runs a SCAN, which
may load anything into them (log 29). -/
def Obligations.CoherenceKeptByEveryStep : Prop :=
  ∀ s s' : State, s.Coherent → step s = .next s' →
    (s.takesIc = false → ∀ f a b k h, s.begin.fetch s.moment ≠ .ok (.scan f a b k h)) → s'.Coherent

/-- The invariants and the launch premises of 70_reset_and_hazards.md R173 hold at reset, and the parameters
there obey the laws of 00_scope.md R3 (the reset values are the model's choice, logs 10, 11, 13). -/
def Obligations.ResetMeetsInvariantAndPremises : Prop :=
  State.reset.Inv ∧ State.reset.LaunchPremises ∧ State.reset.ReturnsPrivileged

/-! ### Storage -/

/-- MemRead (20_memory.md R40): n consecutive units, lowest address first, provided every one is present;
else nothing, as for a range that would pass the top of storage, which no use in scope does. -/
def Obligations.MemReadIsConsecutiveUnits : Prop :=
  ∀ (m : Memory) (key : Key) (a : Addr) (n : Nat),
    (a.toNat + n ≤ 2 ^ 24 →
      (∀ us, m.memRead key a n = some us ↔
        us.length = n ∧ ∀ p, p < n → m.read (location key a + p) = us[p]?) ∧
      (m.memRead key a n = none ↔ ∃ p, p < n ∧ m.read (location key a + p) = none)) ∧
    (2 ^ 24 < a.toNat + n → m.memRead key a n = none)

/-- MemWrite (R40): where it is defined, MemRead of the same block gives the units written, and every
other location reads as before. -/
def Obligations.MemWriteThenMemRead : Prop :=
  ∀ (m m' : Memory) (key : Key) (a : Addr) (us : List Unit24), m.memWrite key a us = some m' →
    m'.memRead key a us.length = some us ∧
    ∀ n, (n < location key a ∨ location key a + us.length ≤ n) → m'.read n = m.read n

/-! ### Added after the review -/

/-- THE SPEC'S OWN DECISION D9 (log 24): a program that writes X[k] between an IVIB or SVR and its EXIT is
refused (43_special_branch.md R131), also where the write falls into an interruption routine, the machine
being in a state with the register recorded. SVC and EXITL record a write of it; the EXIT of an IR that
would make the IVIB or SVR outstanding again is refused once it is written, and so is an EXITL that is that
exit and whose MLX changes it. The premise on savedEbaWritten is part of the invariant (O50). -/
def Obligations.WrittenEbaRegisterRefusedAtReturn : Prop :=
  ∀ (flag : Bool) (i j k r : Field5) (s : State), s.savedEbaReg = some r →
    (s.savedEbaWritten ≠ none → s.savedEbaWritten = some r) →
    let returns := s.bstate = .outstanding .ir ∧
      watchedBranch (decodeBsm s.inst.bsmCode (s11Bsm s.s11)).branch = true
    let t := ({ s with skip := .notSkipping } : State).loadX
      (Config.mlx i j k { s.image with skip := .notSkipping })
    (returns → s.savedEbaWritten = some r →
      exec (.exit flag i j k) s = .refused (.ebaRegisterWritten r)) ∧
    (returns → ¬ (s.skip = .skipping ∧ flag = true) →
      exec (.exitl flag i j k) s =
        if t.readX r ≠ s.readX r ∨ s.savedEbaWritten = some r then .refused (.ebaRegisterWritten r)
        else exec (.exit false i j k) t) ∧
    (s.bstate = .none → ¬ (s.skip = .skipping ∧ flag = true) → s.loc.toNat + 1 < 2 ^ 24 →
      (∃ u, exec (.exitl flag i j k) s = .next u ∧ u.savedEbaReg = some r ∧
        u.savedEbaWritten = if t.readX r ≠ s.readX r then some r else s.savedEbaWritten) ∧
      ∃ u, exec (.svc flag r j k) s = .next u ∧ u.savedEbaReg = some r ∧ u.savedEbaWritten = some r)

/-- The returns are privileged, as an invariant of every step (60_exceptions.md R165, R167; 10_state.md R30;
resting on D15, log 27, and on the laws of the parameters, logs 10 and 11): under lawful parameters, the
carry state stays a value that exists, no problem program ever has an SVR or IR outstanding, and none is
ever saved by an interruption of a problem program. A step that runs a SCAN may load anything (log 29). -/
def Obligations.ReturnsStayPrivileged : Prop :=
  ∀ s s' : State, s.ReturnsPrivileged → step s = .next s' →
    (s.takesIc = false → ∀ f a b k h, s.begin.fetch s.moment ≠ .ok (.scan f a b k h)) →
    s'.ReturnsPrivileged
end

