-- ==== Sys2Proof/Laws/State.lean ====
section
/-! SUPPORT. One lemma per field of State and per named update of it, true by rfl, so that no later
proof unfolds an update. -/

namespace Sys2Proof.Machine

variable (s : State)

/-! ### begin -/
@[simp] theorem begin_x : s.begin.x = s.x := rfl
@[simp] theorem begin_loc : s.begin.loc = s.loc := rfl
@[simp] theorem begin_c : s.begin.c = s.c := rfl
@[simp] theorem begin_s9 : s.begin.s9 = s.s9 := rfl
@[simp] theorem begin_s10 : s.begin.s10 = s.s10 := rfl
@[simp] theorem begin_s11 : s.begin.s11 = s.s11 := rfl
@[simp] theorem begin_bstate : s.begin.bstate = s.bstate := rfl
@[simp] theorem begin_ieba : s.begin.ieba = s.ieba := rfl
@[simp] theorem begin_skip : s.begin.skip = s.skip := rfl
@[simp] theorem begin_carry : s.begin.carry = s.carry := rfl
@[simp] theorem begin_exc : s.begin.exc = clearBits s.exc s.moment.clear := rfl
@[simp] theorem begin_ib : s.begin.ib = s.ib := rfl
@[simp] theorem begin_memory : s.begin.memory = s.memory := rfl
@[simp] theorem begin_outsideAsks : s.begin.outsideAsks = s.moment.asks := rfl
@[simp] theorem begin_inst : s.begin.inst = s.inst := rfl
@[simp] theorem begin_ebaReg : s.begin.ebaReg = s.ebaReg := rfl
@[simp] theorem begin_savedEbaReg : s.begin.savedEbaReg = s.savedEbaReg := rfl
@[simp] theorem begin_savedEbaWritten : s.begin.savedEbaWritten = s.savedEbaWritten := rfl
@[simp] theorem begin_schedule : s.begin.schedule = s.schedule.tail := rfl
@[simp] theorem begin_tick : s.begin.tick = s.tick + 1 := rfl

/-! ### prefetch -/
@[simp] theorem prefetch_x (m : Moment) : (s.prefetch m).x = s.x := rfl
@[simp] theorem prefetch_loc (m : Moment) : (s.prefetch m).loc = s.loc := rfl
@[simp] theorem prefetch_c (m : Moment) : (s.prefetch m).c = s.c := rfl
@[simp] theorem prefetch_s9 (m : Moment) : (s.prefetch m).s9 = s.s9 := rfl
@[simp] theorem prefetch_s10 (m : Moment) : (s.prefetch m).s10 = s.s10 := rfl
@[simp] theorem prefetch_s11 (m : Moment) : (s.prefetch m).s11 = s.s11 := rfl
@[simp] theorem prefetch_bstate (m : Moment) : (s.prefetch m).bstate = s.bstate := rfl
@[simp] theorem prefetch_ieba (m : Moment) : (s.prefetch m).ieba = s.ieba := rfl
@[simp] theorem prefetch_skip (m : Moment) : (s.prefetch m).skip = s.skip := rfl
@[simp] theorem prefetch_carry (m : Moment) : (s.prefetch m).carry = s.carry := rfl
@[simp] theorem prefetch_exc (m : Moment) : (s.prefetch m).exc = s.exc := rfl
@[simp] theorem prefetch_ib (m : Moment) : (s.prefetch m).ib = s.ib ++ m.prefetch.filterMap s.prefetched := rfl
@[simp] theorem prefetch_memory (m : Moment) : (s.prefetch m).memory = s.memory := rfl
@[simp] theorem prefetch_outsideAsks (m : Moment) : (s.prefetch m).outsideAsks = s.outsideAsks := rfl
@[simp] theorem prefetch_inst (m : Moment) : (s.prefetch m).inst = s.inst := rfl
@[simp] theorem prefetch_ebaReg (m : Moment) : (s.prefetch m).ebaReg = s.ebaReg := rfl
@[simp] theorem prefetch_savedEbaReg (m : Moment) : (s.prefetch m).savedEbaReg = s.savedEbaReg := rfl
@[simp] theorem prefetch_savedEbaWritten (m : Moment) : (s.prefetch m).savedEbaWritten = s.savedEbaWritten := rfl
@[simp] theorem prefetch_schedule (m : Moment) : (s.prefetch m).schedule = s.schedule := rfl
@[simp] theorem prefetch_tick (m : Moment) : (s.prefetch m).tick = s.tick := rfl

/-! ### raiseMi -/
@[simp] theorem raiseMi_x : s.raiseMi.x = s.x := rfl
@[simp] theorem raiseMi_loc : s.raiseMi.loc = s.loc := rfl
@[simp] theorem raiseMi_c : s.raiseMi.c = s.c := rfl
@[simp] theorem raiseMi_s9 : s.raiseMi.s9 = s.s9 := rfl
@[simp] theorem raiseMi_s10 : s.raiseMi.s10 = s.s10 := rfl
@[simp] theorem raiseMi_s11 : s.raiseMi.s11 = s.s11 := rfl
@[simp] theorem raiseMi_bstate : s.raiseMi.bstate = s.bstate := rfl
@[simp] theorem raiseMi_ieba : s.raiseMi.ieba = s.ieba := rfl
@[simp] theorem raiseMi_skip : s.raiseMi.skip = s.skip := rfl
@[simp] theorem raiseMi_carry : s.raiseMi.carry = s.carry := rfl
@[simp] theorem raiseMi_exc : s.raiseMi.exc = { s.exc with mi := true } := rfl
@[simp] theorem raiseMi_ib : s.raiseMi.ib = s.ib := rfl
@[simp] theorem raiseMi_memory : s.raiseMi.memory = s.memory := rfl
@[simp] theorem raiseMi_outsideAsks : s.raiseMi.outsideAsks = s.outsideAsks := rfl
@[simp] theorem raiseMi_inst : s.raiseMi.inst = s.inst := rfl
@[simp] theorem raiseMi_ebaReg : s.raiseMi.ebaReg = s.ebaReg := rfl
@[simp] theorem raiseMi_savedEbaReg : s.raiseMi.savedEbaReg = s.savedEbaReg := rfl
@[simp] theorem raiseMi_savedEbaWritten : s.raiseMi.savedEbaWritten = s.savedEbaWritten := rfl
@[simp] theorem raiseMi_schedule : s.raiseMi.schedule = s.schedule := rfl
@[simp] theorem raiseMi_tick : s.raiseMi.tick = s.tick := rfl

/-! ### raiseMa -/
@[simp] theorem raiseMa_x : s.raiseMa.x = s.x := rfl
@[simp] theorem raiseMa_loc : s.raiseMa.loc = s.loc := rfl
@[simp] theorem raiseMa_c : s.raiseMa.c = s.c := rfl
@[simp] theorem raiseMa_s9 : s.raiseMa.s9 = s.s9 := rfl
@[simp] theorem raiseMa_s10 : s.raiseMa.s10 = s.s10 := rfl
@[simp] theorem raiseMa_s11 : s.raiseMa.s11 = s.s11 := rfl
@[simp] theorem raiseMa_bstate : s.raiseMa.bstate = s.bstate := rfl
@[simp] theorem raiseMa_ieba : s.raiseMa.ieba = s.ieba := rfl
@[simp] theorem raiseMa_skip : s.raiseMa.skip = s.skip := rfl
@[simp] theorem raiseMa_carry : s.raiseMa.carry = s.carry := rfl
@[simp] theorem raiseMa_exc : s.raiseMa.exc = { s.exc with ma := true } := rfl
@[simp] theorem raiseMa_ib : s.raiseMa.ib = s.ib := rfl
@[simp] theorem raiseMa_memory : s.raiseMa.memory = s.memory := rfl
@[simp] theorem raiseMa_outsideAsks : s.raiseMa.outsideAsks = s.outsideAsks := rfl
@[simp] theorem raiseMa_inst : s.raiseMa.inst = s.inst := rfl
@[simp] theorem raiseMa_ebaReg : s.raiseMa.ebaReg = s.ebaReg := rfl
@[simp] theorem raiseMa_savedEbaReg : s.raiseMa.savedEbaReg = s.savedEbaReg := rfl
@[simp] theorem raiseMa_savedEbaWritten : s.raiseMa.savedEbaWritten = s.savedEbaWritten := rfl
@[simp] theorem raiseMa_schedule : s.raiseMa.schedule = s.schedule := rfl
@[simp] theorem raiseMa_tick : s.raiseMa.tick = s.tick := rfl

/-! ### raisePi -/
@[simp] theorem raisePi_x : s.raisePi.x = s.x := rfl
@[simp] theorem raisePi_loc : s.raisePi.loc = s.loc := rfl
@[simp] theorem raisePi_c : s.raisePi.c = s.c := rfl
@[simp] theorem raisePi_s9 : s.raisePi.s9 = s.s9 := rfl
@[simp] theorem raisePi_s10 : s.raisePi.s10 = s.s10 := rfl
@[simp] theorem raisePi_s11 : s.raisePi.s11 = s.s11 := rfl
@[simp] theorem raisePi_bstate : s.raisePi.bstate = s.bstate := rfl
@[simp] theorem raisePi_ieba : s.raisePi.ieba = s.ieba := rfl
@[simp] theorem raisePi_skip : s.raisePi.skip = s.skip := rfl
@[simp] theorem raisePi_carry : s.raisePi.carry = s.carry := rfl
@[simp] theorem raisePi_exc : s.raisePi.exc = { s.exc with pi := true } := rfl
@[simp] theorem raisePi_ib : s.raisePi.ib = s.ib := rfl
@[simp] theorem raisePi_memory : s.raisePi.memory = s.memory := rfl
@[simp] theorem raisePi_outsideAsks : s.raisePi.outsideAsks = s.outsideAsks := rfl
@[simp] theorem raisePi_inst : s.raisePi.inst = s.inst := rfl
@[simp] theorem raisePi_ebaReg : s.raisePi.ebaReg = s.ebaReg := rfl
@[simp] theorem raisePi_savedEbaReg : s.raisePi.savedEbaReg = s.savedEbaReg := rfl
@[simp] theorem raisePi_savedEbaWritten : s.raisePi.savedEbaWritten = s.savedEbaWritten := rfl
@[simp] theorem raisePi_schedule : s.raisePi.schedule = s.schedule := rfl
@[simp] theorem raisePi_tick : s.raisePi.tick = s.tick := rfl

/-! ### raisePv -/
@[simp] theorem raisePv_x : s.raisePv.x = s.x := rfl
@[simp] theorem raisePv_loc : s.raisePv.loc = s.loc := rfl
@[simp] theorem raisePv_c : s.raisePv.c = s.c := rfl
@[simp] theorem raisePv_s9 : s.raisePv.s9 = s.s9 := rfl
@[simp] theorem raisePv_s10 : s.raisePv.s10 = s.s10 := rfl
@[simp] theorem raisePv_s11 : s.raisePv.s11 = s.s11 := rfl
@[simp] theorem raisePv_bstate : s.raisePv.bstate = s.bstate := rfl
@[simp] theorem raisePv_ieba : s.raisePv.ieba = s.ieba := rfl
@[simp] theorem raisePv_skip : s.raisePv.skip = s.skip := rfl
@[simp] theorem raisePv_carry : s.raisePv.carry = s.carry := rfl
@[simp] theorem raisePv_exc : s.raisePv.exc = { s.exc with pv := true } := rfl
@[simp] theorem raisePv_ib : s.raisePv.ib = s.ib := rfl
@[simp] theorem raisePv_memory : s.raisePv.memory = s.memory := rfl
@[simp] theorem raisePv_outsideAsks : s.raisePv.outsideAsks = s.outsideAsks := rfl
@[simp] theorem raisePv_inst : s.raisePv.inst = s.inst := rfl
@[simp] theorem raisePv_ebaReg : s.raisePv.ebaReg = s.ebaReg := rfl
@[simp] theorem raisePv_savedEbaReg : s.raisePv.savedEbaReg = s.savedEbaReg := rfl
@[simp] theorem raisePv_savedEbaWritten : s.raisePv.savedEbaWritten = s.savedEbaWritten := rfl
@[simp] theorem raisePv_schedule : s.raisePv.schedule = s.schedule := rfl
@[simp] theorem raisePv_tick : s.raisePv.tick = s.tick := rfl

/-! ### writeX -/
@[simp] theorem writeX_x (n : Field5) (v : Word24) : (s.writeX n v).x = s.x.set n.toNat v n.isLt := rfl
@[simp] theorem writeX_loc (n : Field5) (v : Word24) : (s.writeX n v).loc = s.loc := rfl
@[simp] theorem writeX_c (n : Field5) (v : Word24) : (s.writeX n v).c = s.c := rfl
@[simp] theorem writeX_s9 (n : Field5) (v : Word24) : (s.writeX n v).s9 = s.s9 := rfl
@[simp] theorem writeX_s10 (n : Field5) (v : Word24) : (s.writeX n v).s10 = s.s10 := rfl
@[simp] theorem writeX_s11 (n : Field5) (v : Word24) : (s.writeX n v).s11 = s.s11 := rfl
@[simp] theorem writeX_bstate (n : Field5) (v : Word24) : (s.writeX n v).bstate = s.bstate := rfl
@[simp] theorem writeX_ieba (n : Field5) (v : Word24) : (s.writeX n v).ieba = s.ieba := rfl
@[simp] theorem writeX_skip (n : Field5) (v : Word24) : (s.writeX n v).skip = s.skip := rfl
@[simp] theorem writeX_carry (n : Field5) (v : Word24) : (s.writeX n v).carry = s.carry := rfl
@[simp] theorem writeX_exc (n : Field5) (v : Word24) : (s.writeX n v).exc = s.exc := rfl
@[simp] theorem writeX_ib (n : Field5) (v : Word24) : (s.writeX n v).ib = s.ib := rfl
@[simp] theorem writeX_memory (n : Field5) (v : Word24) : (s.writeX n v).memory = s.memory := rfl
@[simp] theorem writeX_outsideAsks (n : Field5) (v : Word24) : (s.writeX n v).outsideAsks = s.outsideAsks := rfl
@[simp] theorem writeX_inst (n : Field5) (v : Word24) : (s.writeX n v).inst = s.inst := rfl
@[simp] theorem writeX_ebaReg (n : Field5) (v : Word24) : (s.writeX n v).ebaReg = s.ebaReg := rfl
@[simp] theorem writeX_savedEbaReg (n : Field5) (v : Word24) : (s.writeX n v).savedEbaReg = s.savedEbaReg := rfl
@[simp] theorem writeX_savedEbaWritten (n : Field5) (v : Word24) : (s.writeX n v).savedEbaWritten = if s.savedEbaReg = some n then some n else s.savedEbaWritten := rfl
@[simp] theorem writeX_schedule (n : Field5) (v : Word24) : (s.writeX n v).schedule = s.schedule := rfl
@[simp] theorem writeX_tick (n : Field5) (v : Word24) : (s.writeX n v).tick = s.tick := rfl

/-! ### makeOutstanding -/
@[simp] theorem makeOutstanding_x (b : BranchKind) (a : Addr) (r : Option Field5) : (s.makeOutstanding b a r).x = s.x := rfl
@[simp] theorem makeOutstanding_loc (b : BranchKind) (a : Addr) (r : Option Field5) : (s.makeOutstanding b a r).loc = s.loc := rfl
@[simp] theorem makeOutstanding_c (b : BranchKind) (a : Addr) (r : Option Field5) : (s.makeOutstanding b a r).c = s.c := rfl
@[simp] theorem makeOutstanding_s9 (b : BranchKind) (a : Addr) (r : Option Field5) : (s.makeOutstanding b a r).s9 = s.s9 := rfl
@[simp] theorem makeOutstanding_s10 (b : BranchKind) (a : Addr) (r : Option Field5) : (s.makeOutstanding b a r).s10 = s.s10 := rfl
@[simp] theorem makeOutstanding_s11 (b : BranchKind) (a : Addr) (r : Option Field5) : (s.makeOutstanding b a r).s11 = s.s11 := rfl
@[simp] theorem makeOutstanding_bstate (b : BranchKind) (a : Addr) (r : Option Field5) : (s.makeOutstanding b a r).bstate = .outstanding b := rfl
@[simp] theorem makeOutstanding_ieba (b : BranchKind) (a : Addr) (r : Option Field5) : (s.makeOutstanding b a r).ieba = a := rfl
@[simp] theorem makeOutstanding_skip (b : BranchKind) (a : Addr) (r : Option Field5) : (s.makeOutstanding b a r).skip = s.skip := rfl
@[simp] theorem makeOutstanding_carry (b : BranchKind) (a : Addr) (r : Option Field5) : (s.makeOutstanding b a r).carry = s.carry := rfl
@[simp] theorem makeOutstanding_exc (b : BranchKind) (a : Addr) (r : Option Field5) : (s.makeOutstanding b a r).exc = s.exc := rfl
@[simp] theorem makeOutstanding_ib (b : BranchKind) (a : Addr) (r : Option Field5) : (s.makeOutstanding b a r).ib = s.ib := rfl
@[simp] theorem makeOutstanding_memory (b : BranchKind) (a : Addr) (r : Option Field5) : (s.makeOutstanding b a r).memory = s.memory := rfl
@[simp] theorem makeOutstanding_outsideAsks (b : BranchKind) (a : Addr) (r : Option Field5) : (s.makeOutstanding b a r).outsideAsks = s.outsideAsks := rfl
@[simp] theorem makeOutstanding_inst (b : BranchKind) (a : Addr) (r : Option Field5) : (s.makeOutstanding b a r).inst = s.inst := rfl
@[simp] theorem makeOutstanding_ebaReg (b : BranchKind) (a : Addr) (r : Option Field5) : (s.makeOutstanding b a r).ebaReg = r := rfl
@[simp] theorem makeOutstanding_savedEbaReg (b : BranchKind) (a : Addr) (r : Option Field5) : (s.makeOutstanding b a r).savedEbaReg = s.savedEbaReg := rfl
@[simp] theorem makeOutstanding_savedEbaWritten (b : BranchKind) (a : Addr) (r : Option Field5) : (s.makeOutstanding b a r).savedEbaWritten = s.savedEbaWritten := rfl
@[simp] theorem makeOutstanding_schedule (b : BranchKind) (a : Addr) (r : Option Field5) : (s.makeOutstanding b a r).schedule = s.schedule := rfl
@[simp] theorem makeOutstanding_tick (b : BranchKind) (a : Addr) (r : Option Field5) : (s.makeOutstanding b a r).tick = s.tick := rfl

/-! ### enterInterruption -/
@[simp] theorem enterInterruption_x (a : Addr) : (s.enterInterruption a).x = s.x := rfl
@[simp] theorem enterInterruption_loc (a : Addr) : (s.enterInterruption a).loc = interruptionLocation := rfl
@[simp] theorem enterInterruption_c (a : Addr) : (s.enterInterruption a).c = s.c := rfl
@[simp] theorem enterInterruption_s9 (a : Addr) : (s.enterInterruption a).s9 = a := rfl
@[simp] theorem enterInterruption_s10 (a : Addr) : (s.enterInterruption a).s10 = if s.bstate = .none then Config.freeS10 s.tick else s.ieba := rfl
@[simp] theorem enterInterruption_s11 (a : Addr) : (s.enterInterruption a).s11 = s11Of (encodeMode s.inst.modeEnc interruptionMode) (encodeBsm s.inst.bsmCode s.bsm) (s11Mode s.s11) (s11SvcMode s.s11) (s11Rest s.s11) := rfl
@[simp] theorem enterInterruption_bstate (a : Addr) : (s.enterInterruption a).bstate = .none := rfl
@[simp] theorem enterInterruption_ieba (a : Addr) : (s.enterInterruption a).ieba = s.ieba := rfl
@[simp] theorem enterInterruption_skip (a : Addr) : (s.enterInterruption a).skip = .notSkipping := rfl
@[simp] theorem enterInterruption_carry (a : Addr) : (s.enterInterruption a).carry = s.inst.noCarry := rfl
@[simp] theorem enterInterruption_exc (a : Addr) : (s.enterInterruption a).exc = s.exc := rfl
@[simp] theorem enterInterruption_ib (a : Addr) : (s.enterInterruption a).ib = s.ib := rfl
@[simp] theorem enterInterruption_memory (a : Addr) : (s.enterInterruption a).memory = s.memory := rfl
@[simp] theorem enterInterruption_outsideAsks (a : Addr) : (s.enterInterruption a).outsideAsks = s.outsideAsks := rfl
@[simp] theorem enterInterruption_inst (a : Addr) : (s.enterInterruption a).inst = s.inst := rfl
@[simp] theorem enterInterruption_ebaReg (a : Addr) : (s.enterInterruption a).ebaReg = none := rfl
@[simp] theorem enterInterruption_savedEbaReg (a : Addr) : (s.enterInterruption a).savedEbaReg = s.ebaReg := rfl
@[simp] theorem enterInterruption_savedEbaWritten (a : Addr) : (s.enterInterruption a).savedEbaWritten = none := rfl
@[simp] theorem enterInterruption_schedule (a : Addr) : (s.enterInterruption a).schedule = s.schedule := rfl
@[simp] theorem enterInterruption_tick (a : Addr) : (s.enterInterruption a).tick = s.tick := rfl

/-! ### enterSupervisorCall -/
@[simp] theorem enterSupervisorCall_x : s.enterSupervisorCall.x = s.x := rfl
@[simp] theorem enterSupervisorCall_loc : s.enterSupervisorCall.loc = supervisorCallLocation := rfl
@[simp] theorem enterSupervisorCall_c : s.enterSupervisorCall.c = s.c := rfl
@[simp] theorem enterSupervisorCall_s9 : s.enterSupervisorCall.s9 = s.s9 := rfl
@[simp] theorem enterSupervisorCall_s10 : s.enterSupervisorCall.s10 = s.s10 := rfl
@[simp] theorem enterSupervisorCall_s11 : s.enterSupervisorCall.s11 = s11Of (encodeMode s.inst.modeEnc (supervisorCallMode s.mode)) (encodeBsm s.inst.bsmCode { branch := .none, skip := s.skip, carry := s.carry }) (s11IcMode s.s11) (s11Mode s.s11) (s11Rest s.s11) := rfl
@[simp] theorem enterSupervisorCall_bstate : s.enterSupervisorCall.bstate = .none := rfl
@[simp] theorem enterSupervisorCall_ieba : s.enterSupervisorCall.ieba = s.ieba := rfl
@[simp] theorem enterSupervisorCall_skip : s.enterSupervisorCall.skip = .notSkipping := rfl
@[simp] theorem enterSupervisorCall_carry : s.enterSupervisorCall.carry = s.inst.noCarry := rfl
@[simp] theorem enterSupervisorCall_exc : s.enterSupervisorCall.exc = s.exc := rfl
@[simp] theorem enterSupervisorCall_ib : s.enterSupervisorCall.ib = s.ib := rfl
@[simp] theorem enterSupervisorCall_memory : s.enterSupervisorCall.memory = s.memory := rfl
@[simp] theorem enterSupervisorCall_outsideAsks : s.enterSupervisorCall.outsideAsks = s.outsideAsks := rfl
@[simp] theorem enterSupervisorCall_inst : s.enterSupervisorCall.inst = s.inst := rfl
@[simp] theorem enterSupervisorCall_ebaReg : s.enterSupervisorCall.ebaReg = none := rfl
@[simp] theorem enterSupervisorCall_savedEbaReg : s.enterSupervisorCall.savedEbaReg = s.savedEbaReg := rfl
@[simp] theorem enterSupervisorCall_savedEbaWritten : s.enterSupervisorCall.savedEbaWritten = s.savedEbaWritten := rfl
@[simp] theorem enterSupervisorCall_schedule : s.enterSupervisorCall.schedule = s.schedule := rfl
@[simp] theorem enterSupervisorCall_tick : s.enterSupervisorCall.tick = s.tick := rfl

/-! ### restoreFrom -/
@[simp] theorem restoreFrom_x (v : BitVec 3) : (s.restoreFrom v).x = s.x := rfl
@[simp] theorem restoreFrom_loc (v : BitVec 3) : (s.restoreFrom v).loc = s.loc := rfl
@[simp] theorem restoreFrom_c (v : BitVec 3) : (s.restoreFrom v).c = s.c := rfl
@[simp] theorem restoreFrom_s9 (v : BitVec 3) : (s.restoreFrom v).s9 = s.s9 := rfl
@[simp] theorem restoreFrom_s10 (v : BitVec 3) : (s.restoreFrom v).s10 = s.s10 := rfl
@[simp] theorem restoreFrom_s11 (v : BitVec 3) : (s.restoreFrom v).s11 = s11Of v (s11Bsm s.s11) (s11IcMode s.s11) (s11SvcMode s.s11) (s11Rest s.s11) := rfl
@[simp] theorem restoreFrom_bstate (v : BitVec 3) : (s.restoreFrom v).bstate = (decodeBsm s.inst.bsmCode (s11Bsm s.s11)).branch := rfl
@[simp] theorem restoreFrom_ieba (v : BitVec 3) : (s.restoreFrom v).ieba = s.ieba := rfl
@[simp] theorem restoreFrom_skip (v : BitVec 3) : (s.restoreFrom v).skip = (decodeBsm s.inst.bsmCode (s11Bsm s.s11)).skip := rfl
@[simp] theorem restoreFrom_carry (v : BitVec 3) : (s.restoreFrom v).carry = (decodeBsm s.inst.bsmCode (s11Bsm s.s11)).carry := rfl
@[simp] theorem restoreFrom_exc (v : BitVec 3) : (s.restoreFrom v).exc = s.exc := rfl
@[simp] theorem restoreFrom_ib (v : BitVec 3) : (s.restoreFrom v).ib = s.ib := rfl
@[simp] theorem restoreFrom_memory (v : BitVec 3) : (s.restoreFrom v).memory = s.memory := rfl
@[simp] theorem restoreFrom_outsideAsks (v : BitVec 3) : (s.restoreFrom v).outsideAsks = s.outsideAsks := rfl
@[simp] theorem restoreFrom_inst (v : BitVec 3) : (s.restoreFrom v).inst = s.inst := rfl
@[simp] theorem restoreFrom_ebaReg (v : BitVec 3) : (s.restoreFrom v).ebaReg = s.ebaReg := rfl
@[simp] theorem restoreFrom_savedEbaReg (v : BitVec 3) : (s.restoreFrom v).savedEbaReg = s.savedEbaReg := rfl
@[simp] theorem restoreFrom_savedEbaWritten (v : BitVec 3) : (s.restoreFrom v).savedEbaWritten = s.savedEbaWritten := rfl
@[simp] theorem restoreFrom_schedule (v : BitVec 3) : (s.restoreFrom v).schedule = s.schedule := rfl
@[simp] theorem restoreFrom_tick (v : BitVec 3) : (s.restoreFrom v).tick = s.tick := rfl

/-! ### loadX -/
@[simp] theorem loadX_x (f : XFile) : (s.loadX f).x = f := rfl
@[simp] theorem loadX_loc (f : XFile) : (s.loadX f).loc = s.loc := rfl
@[simp] theorem loadX_c (f : XFile) : (s.loadX f).c = s.c := rfl
@[simp] theorem loadX_s9 (f : XFile) : (s.loadX f).s9 = s.s9 := rfl
@[simp] theorem loadX_s10 (f : XFile) : (s.loadX f).s10 = s.s10 := rfl
@[simp] theorem loadX_s11 (f : XFile) : (s.loadX f).s11 = s.s11 := rfl
@[simp] theorem loadX_bstate (f : XFile) : (s.loadX f).bstate = s.bstate := rfl
@[simp] theorem loadX_ieba (f : XFile) : (s.loadX f).ieba = s.ieba := rfl
@[simp] theorem loadX_skip (f : XFile) : (s.loadX f).skip = s.skip := rfl
@[simp] theorem loadX_carry (f : XFile) : (s.loadX f).carry = s.carry := rfl
@[simp] theorem loadX_exc (f : XFile) : (s.loadX f).exc = s.exc := rfl
@[simp] theorem loadX_ib (f : XFile) : (s.loadX f).ib = s.ib := rfl
@[simp] theorem loadX_memory (f : XFile) : (s.loadX f).memory = s.memory := rfl
@[simp] theorem loadX_outsideAsks (f : XFile) : (s.loadX f).outsideAsks = s.outsideAsks := rfl
@[simp] theorem loadX_inst (f : XFile) : (s.loadX f).inst = s.inst := rfl
@[simp] theorem loadX_ebaReg (f : XFile) : (s.loadX f).ebaReg = s.ebaReg := rfl
@[simp] theorem loadX_savedEbaReg (f : XFile) : (s.loadX f).savedEbaReg = s.savedEbaReg := rfl
@[simp] theorem loadX_savedEbaWritten (f : XFile) : (s.loadX f).savedEbaWritten = match s.savedEbaReg with | none => s.savedEbaWritten | some r => if s.changesX f r then some r else s.savedEbaWritten := rfl
@[simp] theorem loadX_schedule (f : XFile) : (s.loadX f).schedule = s.schedule := rfl
@[simp] theorem loadX_tick (f : XFile) : (s.loadX f).tick = s.tick := rfl

/-! ### afterMlx -/
@[simp] theorem afterMlx_x (i j k : Field5) : (s.afterMlx i j k).x = Config.mlx i j k { s.image with skip := .notSkipping } := rfl
@[simp] theorem afterMlx_loc (i j k : Field5) : (s.afterMlx i j k).loc = s.loc := rfl
@[simp] theorem afterMlx_c (i j k : Field5) : (s.afterMlx i j k).c = s.c := rfl
@[simp] theorem afterMlx_s9 (i j k : Field5) : (s.afterMlx i j k).s9 = s.s9 := rfl
@[simp] theorem afterMlx_s10 (i j k : Field5) : (s.afterMlx i j k).s10 = s.s10 := rfl
@[simp] theorem afterMlx_s11 (i j k : Field5) : (s.afterMlx i j k).s11 = s.s11 := rfl
@[simp] theorem afterMlx_bstate (i j k : Field5) : (s.afterMlx i j k).bstate = s.bstate := rfl
@[simp] theorem afterMlx_ieba (i j k : Field5) : (s.afterMlx i j k).ieba = s.ieba := rfl
@[simp] theorem afterMlx_skip (i j k : Field5) : (s.afterMlx i j k).skip = .notSkipping := rfl
@[simp] theorem afterMlx_carry (i j k : Field5) : (s.afterMlx i j k).carry = s.carry := rfl
@[simp] theorem afterMlx_exc (i j k : Field5) : (s.afterMlx i j k).exc = s.exc := rfl
@[simp] theorem afterMlx_ib (i j k : Field5) : (s.afterMlx i j k).ib = s.ib := rfl
@[simp] theorem afterMlx_memory (i j k : Field5) : (s.afterMlx i j k).memory = s.memory := rfl
@[simp] theorem afterMlx_outsideAsks (i j k : Field5) : (s.afterMlx i j k).outsideAsks = s.outsideAsks := rfl
@[simp] theorem afterMlx_inst (i j k : Field5) : (s.afterMlx i j k).inst = s.inst := rfl
@[simp] theorem afterMlx_ebaReg (i j k : Field5) : (s.afterMlx i j k).ebaReg = s.ebaReg := rfl
@[simp] theorem afterMlx_savedEbaReg (i j k : Field5) : (s.afterMlx i j k).savedEbaReg = s.savedEbaReg := rfl
@[simp] theorem afterMlx_savedEbaWritten (i j k : Field5) : (s.afterMlx i j k).savedEbaWritten = (s.loadX (Config.mlx i j k { s.image with skip := .notSkipping })).savedEbaWritten := rfl
@[simp] theorem afterMlx_schedule (i j k : Field5) : (s.afterMlx i j k).schedule = s.schedule := rfl
@[simp] theorem afterMlx_tick (i j k : Field5) : (s.afterMlx i j k).tick = s.tick := rfl

/-! ### loadImage -/
@[simp] theorem loadImage_x (m : MachineImage) : (s.loadImage m).x = m.x := rfl
@[simp] theorem loadImage_loc (m : MachineImage) : (s.loadImage m).loc = m.loc := rfl
@[simp] theorem loadImage_c (m : MachineImage) : (s.loadImage m).c = m.c := rfl
@[simp] theorem loadImage_s9 (m : MachineImage) : (s.loadImage m).s9 = m.s9 := rfl
@[simp] theorem loadImage_s10 (m : MachineImage) : (s.loadImage m).s10 = m.s10 := rfl
@[simp] theorem loadImage_s11 (m : MachineImage) : (s.loadImage m).s11 = m.s11 := rfl
@[simp] theorem loadImage_bstate (m : MachineImage) : (s.loadImage m).bstate = m.bstate := rfl
@[simp] theorem loadImage_ieba (m : MachineImage) : (s.loadImage m).ieba = m.ieba := rfl
@[simp] theorem loadImage_skip (m : MachineImage) : (s.loadImage m).skip = m.skip := rfl
@[simp] theorem loadImage_carry (m : MachineImage) : (s.loadImage m).carry = m.carry := rfl
@[simp] theorem loadImage_exc (m : MachineImage) : (s.loadImage m).exc = m.exc := rfl
@[simp] theorem loadImage_ib (m : MachineImage) : (s.loadImage m).ib = m.ib := rfl
@[simp] theorem loadImage_memory (m : MachineImage) : (s.loadImage m).memory = s.memory := rfl
@[simp] theorem loadImage_outsideAsks (m : MachineImage) : (s.loadImage m).outsideAsks = s.outsideAsks := rfl
@[simp] theorem loadImage_inst (m : MachineImage) : (s.loadImage m).inst = s.inst := rfl
@[simp] theorem loadImage_ebaReg (m : MachineImage) : (s.loadImage m).ebaReg = none := rfl
@[simp] theorem loadImage_savedEbaReg (m : MachineImage) : (s.loadImage m).savedEbaReg = none := rfl
@[simp] theorem loadImage_savedEbaWritten (m : MachineImage) : (s.loadImage m).savedEbaWritten = none := rfl
@[simp] theorem loadImage_schedule (m : MachineImage) : (s.loadImage m).schedule = s.schedule := rfl
@[simp] theorem loadImage_tick (m : MachineImage) : (s.loadImage m).tick = s.tick := rfl

end Sys2Proof.Machine
end

