-- ==== Sys2Proof/Laws/Bits.lean ====
section
/-! SUPPORT. The bit-field laws: the fields of S11 and of an instruction's first unit, the mode bits, the
skip flag. Each says once what a field of a concatenation is. -/

namespace Sys2Proof.Machine

/-! ### S11 (10_state.md R21) -/

section S11
variable (m : BitVec 3) (b : BitVec 7) (i v : BitVec 3) (r : BitVec 8)

@[simp] theorem s11Mode_s11Of : s11Mode (s11Of m b i v r) = m := by
  unfold s11Mode s11Of unitBits
  iterate 4 rw [BitVec.extractLsb'_append_eq_of_le (by omega)]
  exact BitVec.extractLsb'_eq_self

@[simp] theorem s11Bsm_s11Of : s11Bsm (s11Of m b i v r) = b := by
  unfold s11Bsm s11Of unitBits
  iterate 3 rw [BitVec.extractLsb'_append_eq_of_le (by omega)]
  exact BitVec.extractLsb'_append_eq_right

@[simp] theorem s11IcMode_s11Of : s11IcMode (s11Of m b i v r) = i := by
  unfold s11IcMode s11Of unitBits
  iterate 2 rw [BitVec.extractLsb'_append_eq_of_le (by omega)]
  exact BitVec.extractLsb'_append_eq_right

@[simp] theorem s11SvcMode_s11Of : s11SvcMode (s11Of m b i v r) = v := by
  unfold s11SvcMode s11Of unitBits
  rw [BitVec.extractLsb'_append_eq_of_le (by omega)]
  exact BitVec.extractLsb'_append_eq_right

@[simp] theorem s11Rest_s11Of : s11Rest (s11Of m b i v r) = r := by
  unfold s11Rest s11Of unitBits
  exact BitVec.extractLsb'_append_eq_right

end S11

/-- S11 is its five fields. -/
theorem s11Of_fields (w : Word24) :
    s11Of (s11Mode w) (s11Bsm w) (s11IcMode w) (s11SvcMode w) (s11Rest w) = w := by
  apply BitVec.eq_of_getLsbD_eq
  intro n hn
  simp only [s11Of, s11Mode, s11Bsm, s11IcMode, s11SvcMode, s11Rest, unitBits, BitVec.getLsbD_append,
    BitVec.getLsbD_extractLsb']
  split_ifs <;> rw [decide_eq_true (by omega), Bool.true_and] <;> congr 1 <;> omega

/-! ### The mode (R22, R23) -/

/-- The mode bits hold the mode, whatever the assignment and the polarity. -/
@[simp] theorem decodeMode_encodeMode (e : ModeEnc) (m : Mode) : decodeMode e (encodeMode e m) = m := by
  obtain ⟨o, a, b, c⟩ := e
  obtain ⟨x, y, z⟩ := m
  revert o a b c x y z
  have h : ∀ (o : ModeOrder) (a b c p q r : Bool),
      decodeMode ⟨o, a, b, c⟩ (encodeMode ⟨o, a, b, c⟩
        ⟨if p then .supervisory else .problem, if q then .disabled else .enabled,
          if r then .concurrent else .notConcurrent⟩) =
        ⟨if p then .supervisory else .problem, if q then .disabled else .enabled,
          if r then .concurrent else .notConcurrent⟩ := by
    intro o; cases o <;> decide
  intro o a b c x y z
  cases x <;> cases y <;> cases z <;>
    first
      | exact h o a b c true true true
      | exact h o a b c true true false
      | exact h o a b c true false true
      | exact h o a b c true false false
      | exact h o a b c false true true
      | exact h o a b c false true false
      | exact h o a b c false false true
      | exact h o a b c false false false

/-- Every three bits are those of the mode they hold. -/
theorem encodeMode_decodeMode (e : ModeEnc) (v : BitVec 3) : encodeMode e (decodeMode e v) = v := by
  obtain ⟨o, a, b, c⟩ := e
  have h : ∀ a b c : Bool, ∀ v : Fin 8,
      encodeMode ⟨o, a, b, c⟩ (decodeMode ⟨o, a, b, c⟩ (BitVec.ofFin v)) = BitVec.ofFin v := by
    cases o <;> decide
  exact h a b c v.toFin

/-! ### The 7-bit code (R30) -/

theorem BranchState.mem_all (b : BranchState) : b ∈ BranchState.all := by
  rcases b with _ | (_ | _ | _ | _ | _) <;> decide

theorem SkipState.mem_all (k : SkipState) : k ∈ SkipState.all := by cases k <;> decide

/-- What is saved under lawful parameters is brought back. -/
theorem decodeBsm_encodeBsm {inst : Installation} (h : inst.BsmRoundTrip) {b : Bsm} (hc : b.carry ∈ inst.carries) :
    decodeBsm inst.bsmCode (encodeBsm inst.bsmCode b) = b :=
  h b.branch (BranchState.mem_all _) b.skip (SkipState.mem_all _) b.carry hc

/-! ### The first unit of an instruction (30_encoding.md R55) -/

section FirstUnit
variable (t : Opc) (op : Op) (s : Bool) (i j k : Field5)

@[simp] theorem operationField_firstUnit : operationField (firstUnit t op s i j k) = t.code op := by
  unfold operationField firstUnit unitBits
  iterate 3 rw [BitVec.extractLsb'_append_eq_of_le (by omega)]
  exact BitVec.extractLsb'_append_eq_right

@[simp] theorem iField_firstUnit : unitBits (firstUnit t op s i j k) 9 5 = i := by
  unfold firstUnit unitBits
  iterate 2 rw [BitVec.extractLsb'_append_eq_of_le (by omega)]
  exact BitVec.extractLsb'_append_eq_right

@[simp] theorem jField_firstUnit : unitBits (firstUnit t op s i j k) 14 5 = j := by
  unfold firstUnit unitBits
  rw [BitVec.extractLsb'_append_eq_of_le (by omega)]
  exact BitVec.extractLsb'_append_eq_right

@[simp] theorem kField_firstUnit : unitBits (firstUnit t op s i j k) 19 5 = k := by
  unfold firstUnit unitBits
  exact BitVec.extractLsb'_append_eq_right

@[simp] theorem skipFlag_firstUnit : (firstUnit t op s i j k).getMsbD 0 = s := by
  unfold firstUnit
  iterate 4 rw [BitVec.getMsbD_append]
  simp

/-- The term of a first unit is the term of its fields. -/
@[simp] theorem termOf_firstUnit (h : BitVec 24) :
    termOf op (firstUnit t op s i j k) h = op.term s i j k h := by
  simp [termOf]

end FirstUnit

end Sys2Proof.Machine
end

