-- ==== Sys2Proof/Laws/Decode.lean ====
section
/-! SUPPORT. The laws of the operation-code map and of decoding. -/

namespace Sys2Proof

/-- Op.all lists every mnemonic that has a code. -/
theorem Op.mem_all (op : Op) : op ∈ Op.all := by cases op <;> decide

/-- The provisional map is injective (30_encoding.md R62). -/
theorem Opc.provisional_injective : Opc.provisional.Injective := by decide

/-- Under an injective map no two mnemonics share a code. -/
theorem Opc.code_inj {t : Opc} (ht : t.Injective) {a b : Op} (h : t.code a = t.code b) : a = b :=
  List.inj_on_of_nodup_map ht (Op.mem_all a) (Op.mem_all b) h

/-- Under an injective map a mnemonic's code is read back as the mnemonic. -/
@[simp] theorem Opc.opOf_code {t : Opc} (ht : t.Injective) (op : Op) : t.opOf (t.code op) = some op := by
  unfold Opc.opOf
  cases h : Op.all.find? fun o => t.code o == t.code op with
  | none =>
    have := List.find?_eq_none.mp h op (Op.mem_all op)
    simp at this
  | some o =>
    have := List.find?_some h
    exact congrArg some (Opc.code_inj ht (by simpa using this))

/-- What a code is read as has that code. -/
theorem Opc.code_of_opOf {t : Opc} {c : BitVec 8} {op : Op} (h : t.opOf c = some op) : t.code op = c := by
  simpa using List.find?_some h

open Machine in
/-- Decoding a short first unit. -/
theorem decode_shortForm {t : Opc} (ht : t.Injective) {op : Op} (hop : op.isLong = false)
    (s : Bool) (i j k : Field5) (rest : List Unit24) :
    decode t (shortForm t op s i j k ++ rest) = .ok (op.term s i j k 0, rest) := by
  simp [decode, shortForm, Opc.opOf_code ht, hop]

open Machine in
/-- Decoding a long instruction. -/
theorem decode_longForm {t : Opc} (ht : t.Injective) {op : Op} (hop : op.isLong = true)
    (s : Bool) (i j k : Field5) (h : BitVec 24) (rest : List Unit24) :
    decode t (longForm t op s i j k h ++ rest) = .ok (op.term s i j k h, rest) := by
  simp [decode, longForm, Opc.opOf_code ht, hop]

end Sys2Proof
end

