-- ==== Sys2Proof/Laws/Ops.lean ====
section
/-! SUPPORT. One lemma per shared operation that says everything it can do: when it answers a next state,
and which. Later proofs cite these and unfold no operation. -/

namespace Sys2Proof.Machine

variable {s t : State}

/-! ### Sequential advance and the skipping rule -/

@[simp] theorem hasNext_iff {len : Nat} : s.hasNext len = true ↔ s.loc.toNat + len < 2 ^ 24 := by
  simp [State.hasNext]

theorem advance_of_hasNext {len : Nat} (h : s.hasNext len = true) :
    advance len s = .next { s with loc := s.nextLoc len } := if_pos h

theorem advance_next {len : Nat} :
    advance len s = .next t ↔ s.hasNext len = true ∧ t = { s with loc := s.nextLoc len } := by
  unfold advance
  cases h : s.hasNext len <;> simp [eq_comm]

theorem unlessSkipped_of_ignores {flag : Bool} {len : Nat} {body : State → Result} (h : s.ignores flag = true) :
    unlessSkipped flag len s body = advance len s := if_pos h

theorem unlessSkipped_of_not {flag : Bool} {len : Nat} {body : State → Result} (h : s.ignores flag = false) :
    unlessSkipped flag len s body = body s := by simp [unlessSkipped, h]

theorem unlessSkipped_next {flag : Bool} {len : Nat} {body : State → Result} :
    unlessSkipped flag len s body = .next t ↔
      (s.ignores flag = true ∧ advance len s = .next t) ∨ (s.ignores flag = false ∧ body s = .next t) := by
  cases h : s.ignores flag <;> simp [unlessSkipped, h]

/-! ### Branches and skips -/

theorem branchAtExit_next {success : Bool} {a : Addr} {len : Nat} :
    branchAtExit success a len s = .next t ↔
      (s.bstate = .none ∧ success = true ∧ advance len (s.makeOutstanding .br a none) = .next t) ∨
      (¬ (s.bstate = .none ∧ success = true) ∧ advance len s = .next t) := by
  unfold branchAtExit
  by_cases h : s.bstate = .none <;> by_cases h' : success = true <;> simp [h, h']

/-! ### Interruption -/

theorem interrupt_of_present {ret : Addr}
    (h : s.isPresent (s.normalKey .supervisory) interruptionLocation = true) :
    interrupt ret s = .next (s.enterInterruption ret) := if_pos h

theorem interrupt_next {ret : Addr} :
    interrupt ret s = .next t ↔
      s.isPresent (s.normalKey .supervisory) interruptionLocation = true ∧ t = s.enterInterruption ret := by
  unfold interrupt
  split_ifs with h <;> simp [h, eq_comm]

theorem pauseHere_next :
    pauseHere s = .next t ↔
      s.hasNext 1 = true ∧ ((s.canTake = true ∧ interrupt (s.nextLoc 1) s = .next t) ∨
        (s.canTake = false ∧ t = { s with loc := s.nextLoc 1 })) := by
  unfold pauseHere
  cases h : s.canTake <;> cases h1 : s.hasNext 1 <;> simp [advance, h1, eq_comm]

/-- Whether an interruption can be taken depends on the mode, the exception bits and the outside. -/
theorem canTake_eq : s.canTake = (s.mode.dis == .enabled && (excAny s.exc || s.outsideAsks)) := rfl

/-! ### The mode after an update -/

@[simp] theorem mode_enterInterruption (a : Addr) : (s.enterInterruption a).mode = interruptionMode := by
  simp [State.mode]

@[simp] theorem mode_enterSupervisorCall : s.enterSupervisorCall.mode = supervisorCallMode s.mode := by
  simp [State.mode]

@[simp] theorem mode_restoreFrom (v : BitVec 3) : (s.restoreFrom v).mode = decodeMode s.inst.modeEnc v := by
  simp [State.mode]

@[simp] theorem mode_raiseMi : s.raiseMi.mode = s.mode := rfl
@[simp] theorem mode_raiseMa : s.raiseMa.mode = s.mode := rfl
@[simp] theorem mode_raisePi : s.raisePi.mode = s.mode := rfl
@[simp] theorem mode_raisePv : s.raisePv.mode = s.mode := rfl
@[simp] theorem mode_writeX (n : Field5) (v : Word24) : (s.writeX n v).mode = s.mode := rfl
@[simp] theorem mode_begin : s.begin.mode = s.mode := rfl
@[simp] theorem mode_prefetch (m : Moment) : (s.prefetch m).mode = s.mode := rfl
@[simp] theorem mode_afterMlx (i j k : Field5) : (s.afterMlx i j k).mode = s.mode := rfl

/-! ### X registers -/

@[simp] theorem readX_writeX_same (n : Field5) (v : Word24) : (s.writeX n v).readX n = v := by
  simp [State.readX, State.writeX]

theorem readX_writeX_other {n n' : Field5} (v : Word24) (h : n' ≠ n) :
    (s.writeX n v).readX n' = s.readX n' := by
  have : n.toNat ≠ n'.toNat := fun e => h (BitVec.eq_of_toNat_eq e.symm)
  simp [State.readX, State.writeX, this]

/-! ### Transfer of control and the exit point -/

theorem transfer_of_present {key : Key} {a : Addr} (h : s.isPresent key a = true) :
    transfer key a s = .next { s with loc := a } := if_pos h

theorem transfer_next {key : Key} {a : Addr} :
    transfer key a s = .next t ↔
      (s.isPresent key a = true ∧ t = { s with loc := a }) ∨
      (s.isPresent key a = false ∧ s.mode.dis = .enabled ∧
        interrupt (Config.freeS9 s.tick) s.raiseMi = .next t) := by
  unfold transfer
  by_cases h : s.isPresent key a = true
  · simp [h, eq_comm]
  · by_cases h1 : s.mode.dis = .enabled <;> simp [h, h1]

theorem exitSvc_next :
    exitSvc s = .next t ↔
      s.isPresent (s.normalKey .supervisory) supervisorCallLocation = true ∧ t = s.enterSupervisorCall := by
  unfold exitSvc
  split_ifs with h <;> simp [h, eq_comm]

@[simp] theorem mode_afterSvr : s.afterSvr.mode = decodeMode s.inst.modeEnc (s11SvcMode s.s11) := by
  unfold State.mode State.afterSvr; simp

@[simp] theorem mode_afterIr : s.afterIr.mode = decodeMode s.inst.modeEnc (s11IcMode s.s11) := by
  unfold State.mode State.afterIr; simp

theorem exitSvr_next :
    exitSvr s = .next t ↔ s.afterSvr.bstate = .none ∧
      transfer (s.afterSvr.normalKey s.afterSvr.mode.sup) s.ieba s.afterSvr = .next t := by
  unfold exitSvr
  split_ifs with h <;> simp [h]

theorem exitIr_of_unwritten (h : s.irWritten = none) :
    exitIr s = transfer (s.afterIr.normalKey s.afterIr.mode.sup) s.s9 s.afterIr := by
  unfold exitIr; rw [h]

theorem exitIr_of_written {r : Field5} (h : s.irWritten = some r) :
    exitIr s = .refused (.ebaRegisterWritten r) := by
  unfold exitIr; rw [h]

theorem exitIr_next :
    exitIr s = .next t ↔ s.irWritten = none ∧
      transfer (s.afterIr.normalKey s.afterIr.mode.sup) s.s9 s.afterIr = .next t := by
  unfold exitIr
  cases s.irWritten <;> simp

/-- The exit point of each branch state (41_exit.md R92, R93). -/
theorem exitPoint_none (h : s.bstate = .none) : exitPoint s = advance 1 s := by simp [exitPoint, h]
theorem exitPoint_br (h : s.bstate = .outstanding .br) : exitPoint s = exitBranch s := by simp [exitPoint, h]
theorem exitPoint_ivib (h : s.bstate = .outstanding .ivib) : exitPoint s = exitIvib s := by simp [exitPoint, h]
theorem exitPoint_svc (h : s.bstate = .outstanding .svc) : exitPoint s = exitSvc s := by simp [exitPoint, h]
theorem exitPoint_svr (h : s.bstate = .outstanding .svr) : exitPoint s = exitSvr s := by simp [exitPoint, h]
theorem exitPoint_ir (h : s.bstate = .outstanding .ir) : exitPoint s = exitIr s := by simp [exitPoint, h]

/-! ### SCAN -/

theorem scanIn_next {a : Addr} :
    scanIn a s = .next t ↔
      (∃ block, s.memory.memRead (s.alternateKey s.mode.sup) a s.inst.scanUnits.val = some block ∧
        t = s.loadImage (Config.scanLayout block)) ∨
      (s.memory.memRead (s.alternateKey s.mode.sup) a s.inst.scanUnits.val = none ∧
        s.mode.dis = .enabled ∧ interrupt (Config.freeS9 s.tick) s.raiseMa = .next t) := by
  unfold scanIn
  cases h : s.memory.memRead (s.alternateKey s.mode.sup) a s.inst.scanUnits.val with
  | some block => simp [eq_comm]
  | none => by_cases h1 : s.mode.dis = .enabled <;> simp [h1]

end Sys2Proof.Machine
end

