-- ==== Sys2Proof/Laws/Exec.lean ====
section
/-! SUPPORT. What executing an instruction can do when it answers a next state, said once: `exit_effect` for
the exit point and `exec_effect` for every instruction. Whole-machine claims go by cases on these. -/

namespace Sys2Proof.Machine

/-- What the exit point can do (41_exit.md R92 to R94). -/
inductive ExitEffect (s : State) : State → Prop where
  | advance (hb : s.bstate = .none) (hn : s.loc.toNat + 1 < 2 ^ 24) :
      ExitEffect s { s with loc := s.nextLoc 1 }
  | taken (hb : s.bstate = .outstanding .br) :
      ExitEffect s { s with bstate := .none, ebaReg := none, loc := s.ieba }
  | takenIvib (hb : s.bstate = .outstanding .ivib) :
      ExitEffect s { s with ib := [], bstate := .none, ebaReg := none, loc := s.ieba }
  | call (hb : s.bstate = .outstanding .svc) : ExitEffect s s.enterSupervisorCall
  | svr (hb : s.bstate = .outstanding .svr) (hr : s.afterSvr.bstate = .none) :
      ExitEffect s { s.afterSvr with loc := s.ieba }
  | ir (hb : s.bstate = .outstanding .ir) (hw : s.irWritten = none) :
      ExitEffect s { s.afterIr with loc := s.s9 }
  | missing (hm : s.exitTargetMissing = true) (r : State) (a : Addr)
      (hr : r = { s with bstate := .none, ebaReg := none } ∨
        r = { s with ib := [], bstate := .none, ebaReg := none } ∨
        (s.bstate = .outstanding .svr ∧ s.afterSvr.bstate = .none ∧ r = s.afterSvr) ∨
        (s.bstate = .outstanding .ir ∧ r = s.afterIr)) :
      ExitEffect s (r.raiseMi.enterInterruption a)

theorem supervisory_of_not_problem {p : Privilege} (h : ¬ p = .problem) : p = .supervisory := by
  cases p with
  | supervisory => rfl
  | problem => exact absurd rfl h

/-- Every next state of the exit point. -/
theorem exit_effect {s t : State} (h : exitPoint s = .next t) : ExitEffect s t := by
  rcases hb : s.bstate with _ | (_ | _ | _ | _ | _)
  · rw [exitPoint_none hb, advance_next] at h
    obtain ⟨hn, rfl⟩ := h
    exact .advance hb (hasNext_iff.mp hn)
  · rw [exitPoint_br hb, exitBranch, transfer_next] at h
    obtain ⟨-, rfl⟩ | ⟨hp, -, hi⟩ := h
    · exact .taken hb
    · rw [(interrupt_next.mp hi).2]
      exact .missing (by rw [State.exitTargetMissing, hb]; exact Bool.not_eq_true' _ ▸ hp) _ _ (.inl rfl)
  · rw [exitPoint_ivib hb, exitIvib, transfer_next] at h
    obtain ⟨-, rfl⟩ | ⟨hp, -, hi⟩ := h
    · exact .takenIvib hb
    · rw [(interrupt_next.mp hi).2]
      exact .missing (by rw [State.exitTargetMissing, hb]; exact Bool.not_eq_true' _ ▸ hp) _ _ (.inr (.inl rfl))
  · rw [exitPoint_svc hb, exitSvc_next] at h
    exact h.2 ▸ .call hb
  · rw [exitPoint_svr hb, exitSvr_next, transfer_next] at h
    obtain ⟨hr, ⟨-, rfl⟩ | ⟨hp, -, hi⟩⟩ := h
    · exact .svr hb hr
    · rw [(interrupt_next.mp hi).2]
      rw [mode_afterSvr] at hp
      refine .missing ?_ _ _ (.inr (.inr (.inl ⟨hb, hr, rfl⟩)))
      rw [State.exitTargetMissing, hb]
      exact Bool.not_eq_true' _ ▸ hp
  · rw [exitPoint_ir hb, exitIr_next, transfer_next] at h
    obtain ⟨hw, ⟨-, rfl⟩ | ⟨hp, -, hi⟩⟩ := h
    · exact .ir hb hw
    · rw [(interrupt_next.mp hi).2]
      rw [mode_afterIr] at hp
      refine .missing ?_ _ _ (.inr (.inr (.inr ⟨hb, rfl⟩)))
      rw [State.exitTargetMissing, hb]
      exact Bool.not_eq_true' _ ▸ hp

/-- What an instruction can do. -/
inductive Effect (s : State) : Instr → State → Prop where
  /-- it only advances: skipped, suppressed, unsuccessful, or a PAUSE with nothing to wait for -/
  | advance {i : Instr} (hi : ¬ isExit i) (hn : s.loc.toNat + i.units < 2 ^ 24) :
      Effect s i { s with loc := s.nextLoc i.units }
  /-- a branch other than SVC and IR becomes the outstanding one -/
  | branch {i : Instr} (hi : ¬ isExit i) (hn : s.loc.toNat + i.units < 2 ^ 24) (hb : s.bstate = .none)
      (k : BranchKind) (a : Addr) (r : Option Field5)
      (hk : returnOutstanding (.outstanding k) = true → s.mode.sup = .supervisory)
      (hr : r.isSome = true → watchedBranch (.outstanding k) = true) :
      Effect s i { s with ieba := a, bstate := .outstanding k, ebaReg := r, loc := s.nextLoc i.units }
  /-- an IR becomes the outstanding branch -/
  | irBranch (f : Bool) (a b k : Field5) (hn : s.loc.toNat + 1 < 2 ^ 24) (hb : s.bstate = .none)
      (hm : s.mode.sup = .supervisory) :
      Effect s (.ir f a b k) { s with bstate := .outstanding .ir, loc := s.nextLoc 1 }
  /-- a SVC becomes the outstanding branch -/
  | svcBranch (f : Bool) (a b k : Field5) (hf : s.ignores f = false) (hn : s.loc.toNat + 1 < 2 ^ 24)
      (hb : s.bstate = .none) :
      Effect s (.svc f a b k)
        { s.writeX a (sext24 (literalJk b k)) with bstate := .outstanding .svc, loc := s.nextLoc 1 }
  /-- a SKIP sets the skip state -/
  | skip (c : CondFn) (f : Bool) (a b k : Field5) (hf : s.ignores f = false)
      (hn : s.loc.toNat + 1 < 2 ^ 24) :
      Effect s (skipOf c f a b k)
        { s with skip := if s.condition c a b then .skipping else .notSkipping, loc := s.nextLoc 1 }
  /-- an EXIT or EXITL does its exit point, in the state as it is -/
  | exit {i : Instr} {t : State} (hi : isExit i) (h : ExitEffect s t) : Effect s i t
  /-- an EXITL does its exit point after MLX -/
  | exitl (f : Bool) (a b k : Field5) (hf : s.ignores f = false) {t : State}
      (h : ExitEffect (s.afterMlx a b k) t) : Effect s (.exitl f a b k) t
  /-- IC is entered -/
  | ic : Effect s .ic (s.enterInterruption s.loc)
  /-- a PAUSE takes the interruption that is pending -/
  | pause (f : Bool) (a b k : Field5) (hf : s.ignores f = false) (hc : s.canTake = true) :
      Effect s (.pause f a b k) (s.enterInterruption (s.nextLoc 1))
  /-- a PI writes its register, sets PI and is interrupted -/
  | pi (f : Bool) (a b k : Field5) (hf : s.ignores f = false) :
      Effect s (.pi f a b k)
        ((s.writeX a (sext24 (literalJk b k))).raisePi.enterInterruption (s.nextLoc 1))
  /-- a privileged instruction in problem mode sets PV -/
  | privileged (f : Bool) (a b k : Field5) (h : BitVec 24) {i : Instr}
      (hi : i = .svr f a b k h ∨ i = .ir f a b k ∨ i = .scan f a b k h)
      (hf : s.ignores f = false) (hm : s.mode.sup = .problem) (hn : s.loc.toNat + i.units < 2 ^ 24) :
      Effect s i { s.raisePv with loc := s.nextLoc i.units }
  /-- a SCAN loads the processor -/
  | scanLoad (f : Bool) (a b k : Field5) (h : BitVec 24) (block : List Unit24)
      (hl : s.loadsMachine (.scan f a b k h))
      (hb : s.memory.memRead (s.alternateKey .supervisory) (s.scanAddress k h) s.inst.scanUnits.val = some block) :
      Effect s (.scan f a b k h) (s.loadImage (Config.scanLayout block))
  /-- a SCAN of a missing block sets MA and is interrupted -/
  | scanMissing (f : Bool) (a b k : Field5) (h : BitVec 24) (r : Addr) (hf : s.ignores f = false)
      (hm : s.mode.sup = .supervisory)
      (hb : s.memory.memRead (s.alternateKey .supervisory) (s.scanAddress k h) s.inst.scanUnits.val = none) :
      Effect s (.scan f a b k h) (s.raiseMa.enterInterruption r)

variable {s t : State}

theorem conditionalBranch_effect {c : CondFn} {f : Bool} {a b k : Field5} {h : BitVec 24}
    (hx : conditionalBranch c f a b k h s = .next t) {i : Instr} (hi : ¬ isExit i) (hu : i.units = 2) :
    Effect s i t := by
  simp only [conditionalBranch, unlessSkipped_next, branchAtExit_next, advance_next, hasNext_iff] at hx
  obtain ⟨-, hn, rfl⟩ | ⟨-, ⟨hb, -, hn, rfl⟩ | ⟨-, hn, rfl⟩⟩ := hx
  · exact hu ▸ .advance hi (hu ▸ hn)
  · exact hu ▸ .branch hi (hu ▸ hn) hb .br _ none (by simp [returnOutstanding]) (by simp)
  · exact hu ▸ .advance hi (hu ▸ hn)

theorem skipOn_effect {c : CondFn} {f : Bool} {a b : Field5} (hx : skipOn c f a b s = .next t) (k : Field5) :
    Effect s (skipOf c f a b k) t := by
  have hi : ¬ isExit (skipOf c f a b k) := by cases c <;> simp [skipOf, isExit]
  have hu : (skipOf c f a b k).units = 1 := by cases c <;> rfl
  simp only [skipOn, unlessSkipped_next, setSkip, advance_next, hasNext_iff] at hx
  obtain ⟨-, hn, rfl⟩ | ⟨hf, hn, rfl⟩ := hx
  · exact hu ▸ .advance hi (hu ▸ hn)
  · exact .skip c f a b k hf hn

theorem bu_effect {f : Bool} {a b k : Field5} (hx : execBu f k s = .next t) : Effect s (.bu f a b k) t := by
  have hi : ¬ isExit (.bu f a b k) := by simp [isExit]
  simp only [execBu, unlessSkipped_next, branchAtExit_next, advance_next, hasNext_iff] at hx
  obtain ⟨-, hn, rfl⟩ | ⟨-, ⟨hb, -, hn, rfl⟩ | ⟨-, hn, rfl⟩⟩ := hx
  · exact .advance hi hn
  · exact .branch (s := s) hi hn hb .br _ none (by simp [returnOutstanding]) (by simp)
  · exact .advance hi hn

theorem exitl_effect {f : Bool} {a b k : Field5} (hx : execExitl f a b k s = .next t) :
    Effect s (.exitl f a b k) t := by
  unfold execExitl at hx
  cases hf : s.ignores f
  · simp only [hf, Bool.false_eq_true, if_false] at hx
    refine .exitl f a b k hf (exit_effect ?_)
    cases hr : s.ebaReg with
    | none => simpa [hr] using hx
    | some r =>
      simp only [hr] at hx
      split_ifs at hx
      exact hx
  · rw [if_pos hf] at hx
    exact .exit ⟨f, a, b, k, .inr rfl⟩ (exit_effect hx)

theorem ivib_effect {f : Bool} {a b k : Field5} {h : BitVec 24} (hx : execIvib f k h s = .next t) :
    Effect s (.ivib f a b k h) t := by
  have hi : ¬ isExit (.ivib f a b k h) := by simp [isExit]
  simp only [execIvib, unlessSkipped_next] at hx
  obtain ⟨-, hx⟩ | ⟨-, hx⟩ := hx
  · obtain ⟨hn, rfl⟩ := advance_next.mp hx
    exact .advance hi (hasNext_iff.mp hn)
  · split_ifs at hx with hb <;> obtain ⟨hn, rfl⟩ := advance_next.mp hx
    · exact .branch (s := s) hi (hasNext_iff.mp hn) hb .ivib _ (some k) (by simp [returnOutstanding]) fun _ => rfl
    · exact .advance hi (hasNext_iff.mp hn)

theorem pause_effect {f : Bool} {a b k : Field5} (hx : execPause f s = .next t) : Effect s (.pause f a b k) t := by
  have hi : ¬ isExit (.pause f a b k) := by simp [isExit]
  simp only [execPause, unlessSkipped_next, pauseHere_next, hasNext_iff] at hx
  obtain ⟨-, hx⟩ | ⟨hf, hn, ⟨hc, hx⟩ | ⟨-, rfl⟩⟩ := hx
  · obtain ⟨hn, rfl⟩ := advance_next.mp hx
    exact .advance hi (hasNext_iff.mp hn)
  · exact (interrupt_next.mp hx).2 ▸ .pause f a b k hf hc
  · exact .advance hi hn

theorem pi_effect {f : Bool} {a b k : Field5} (hx : execPi f a b k s = .next t) : Effect s (.pi f a b k) t := by
  have hi : ¬ isExit (.pi f a b k) := by simp [isExit]
  simp only [execPi, unlessSkipped_next] at hx
  obtain ⟨-, hx⟩ | ⟨hf, hx⟩ := hx
  · obtain ⟨hn, rfl⟩ := advance_next.mp hx
    exact .advance hi (hasNext_iff.mp hn)
  · split_ifs at hx with h1 h2
    have hd : s.mode.dis = .enabled := by
      cases hd : s.mode.dis
      · exact absurd hd h2
      · rfl
    obtain ⟨hn, ⟨-, hx⟩ | ⟨hc, -⟩⟩ := pauseHere_next.mp hx
    · exact (interrupt_next.mp hx).2 ▸ .pi f a b k hf
    · rw [canTake_eq, mode_raisePi, mode_writeX, hd] at hc
      simp [State.raisePi, excAny] at hc

theorem svc_effect {f : Bool} {a b k : Field5} (hx : execSvc f a b k s = .next t) : Effect s (.svc f a b k) t := by
  have hi : ¬ isExit (.svc f a b k) := by simp [isExit]
  simp only [execSvc, unlessSkipped_next] at hx
  obtain ⟨-, hx⟩ | ⟨hf, hx⟩ := hx
  · obtain ⟨hn, rfl⟩ := advance_next.mp hx
    exact .advance hi (hasNext_iff.mp hn)
  · split_ifs at hx with hb <;> obtain ⟨hn, rfl⟩ := advance_next.mp hx
    · exact .svcBranch f a b k hf (hasNext_iff.mp hn) hb
    · exact .advance hi (hasNext_iff.mp hn)

theorem svr_effect {f : Bool} {a b k : Field5} {h : BitVec 24} (hx : execSvr f k h s = .next t) :
    Effect s (.svr f a b k h) t := by
  have hi : ¬ isExit (.svr f a b k h) := by simp [isExit]
  simp only [execSvr, unlessSkipped_next] at hx
  obtain ⟨-, hx⟩ | ⟨hf, hx⟩ := hx
  · obtain ⟨hn, rfl⟩ := advance_next.mp hx
    exact .advance hi (hasNext_iff.mp hn)
  · split_ifs at hx with hm hb <;> obtain ⟨hn, rfl⟩ := advance_next.mp hx
    · revert hn
      unfold State.privilegeViolation
      split_ifs <;> intro hn
      · exact .privileged f a b k h (.inl rfl) hf hm (hasNext_iff.mp hn)
      · exact .advance hi (hasNext_iff.mp hn)
    · exact .branch (s := s) hi (hasNext_iff.mp hn) hb .svr _ (some k) (fun _ => supervisory_of_not_problem hm) fun _ => rfl
    · exact .advance hi (hasNext_iff.mp hn)

theorem ir_effect {f : Bool} {a b k : Field5} (hx : execIr f s = .next t) : Effect s (.ir f a b k) t := by
  have hi : ¬ isExit (.ir f a b k) := by simp [isExit]
  simp only [execIr, unlessSkipped_next] at hx
  obtain ⟨-, hx⟩ | ⟨hf, hx⟩ := hx
  · obtain ⟨hn, rfl⟩ := advance_next.mp hx
    exact .advance hi (hasNext_iff.mp hn)
  · split_ifs at hx with hm hb <;> obtain ⟨hn, rfl⟩ := advance_next.mp hx
    · revert hn
      unfold State.privilegeViolation
      split_ifs <;> intro hn
      · exact .privileged f a b k 0 (.inr (.inl rfl)) hf hm (hasNext_iff.mp hn)
      · exact .advance hi (hasNext_iff.mp hn)
    · exact .irBranch f a b k (hasNext_iff.mp hn) hb (supervisory_of_not_problem hm)
    · exact .advance hi (hasNext_iff.mp hn)

theorem scan_effect {f : Bool} {a b k : Field5} {h : BitVec 24} (hx : execScan f k h s = .next t) :
    Effect s (.scan f a b k h) t := by
  have hi : ¬ isExit (.scan f a b k h) := by simp [isExit]
  simp only [execScan, unlessSkipped_next] at hx
  obtain ⟨-, hx⟩ | ⟨hf, hx⟩ := hx
  · obtain ⟨hn, rfl⟩ := advance_next.mp hx
    exact .advance hi (hasNext_iff.mp hn)
  · split_ifs at hx with hm
    · obtain ⟨hn, rfl⟩ := advance_next.mp hx
      exact .privileged f a b k h (.inr (.inr rfl)) hf hm (hasNext_iff.mp hn)
    · have hs := supervisory_of_not_problem hm
      rw [scanIn_next, hs] at hx
      obtain ⟨block, hr, rfl⟩ | ⟨hr, -, hx⟩ := hx
      · exact .scanLoad f a b k h block ⟨f, a, b, k, h, rfl, hf, hs, by rw [hr]; rfl⟩ hr
      · exact (interrupt_next.mp hx).2 ▸ .scanMissing f a b k h _ hf hs hr

/-- Every next state of every instruction. -/
theorem exec_effect {i : Instr} (hx : exec i s = .next t) : Effect s i t := by
  cases i with
  | band f a b k h => exact conditionalBranch_effect hx (by simp [isExit]) rfl
  | btaf f a b k h => exact conditionalBranch_effect hx (by simp [isExit]) rfl
  | bfaf f a b k h => exact conditionalBranch_effect hx (by simp [isExit]) rfl
  | bor f a b k h => exact conditionalBranch_effect hx (by simp [isExit]) rfl
  | btof f a b k h => exact conditionalBranch_effect hx (by simp [isExit]) rfl
  | bfof f a b k h => exact conditionalBranch_effect hx (by simp [isExit]) rfl
  | beq f a b k h => exact conditionalBranch_effect hx (by simp [isExit]) rfl
  | bxor f a b k h => exact conditionalBranch_effect hx (by simp [isExit]) rfl
  | bu f a b k => exact bu_effect hx
  | exit f a b k => exact .exit ⟨f, a, b, k, .inl rfl⟩ (exit_effect hx)
  | exitl f a b k => exact exitl_effect hx
  | skand f a b k => exact skipOn_effect (c := .and) hx k
  | sktaf f a b k => exact skipOn_effect (c := .taf) hx k
  | skfaf f a b k => exact skipOn_effect (c := .faf) hx k
  | skor f a b k => exact skipOn_effect (c := .or) hx k
  | sktof f a b k => exact skipOn_effect (c := .tof) hx k
  | skfof f a b k => exact skipOn_effect (c := .fof) hx k
  | skeq f a b k => exact skipOn_effect (c := .eq) hx k
  | skxor f a b k => exact skipOn_effect (c := .xor) hx k
  | ivib f a b k h => exact ivib_effect hx
  | pause f a b k => exact pause_effect hx
  | pi f a b k => exact pi_effect hx
  | svc f a b k => exact svc_effect hx
  | svr f a b k h => exact svr_effect hx
  | ir f a b k => exact ir_effect hx
  | scan f a b k h => exact scan_effect hx
  | ic => exact (interrupt_next.mp hx).2 ▸ .ic

end Sys2Proof.Machine
end

