-- ==== Sys2Proof/Laws/Memory.lean ====
section
/-! SUPPORT. The laws of storage: every memory operation keeps the canonical form, a unit read after it is
put is the unit put, and every other unit is as before. -/

namespace Sys2Proof.Machine

/-- Two references are listed under one number only if they are the same reference. -/
theorem location_inj {k k' : Key} {a a' : Addr} (h : location k a = location k' a') : k = k' ∧ a = a' := by
  have h1 := a.isLt
  have h2 := a'.isLt
  unfold location at h
  have hk : k = k' := by
    rcases Nat.lt_trichotomy k k' with hlt | heq | hlt
    · omega
    · exact heq
    · omega
  exact ⟨hk, BitVec.eq_of_toNat_eq (by subst hk; omega)⟩

theorem reset_memory_wf : State.reset.memory.wf := by decide

/-- A location below every listed one is missing. -/
theorem Memory.read_eq_none_of_lt {m : Memory} {n : Nat} (h : ∀ l ∈ m.map Prod.fst, n < l) :
    m.read n = none := by
  induction m with
  | nil => rfl
  | cons c m ih =>
    obtain ⟨l, u⟩ := c
    have hl : n < l := h l (by simp)
    rw [Memory.read, if_neg (by omega)]
    exact ih fun l' hl' => h l' (by simp at hl' ⊢; exact .inr hl')

/-- The unit put is the unit read. -/
@[simp] theorem Memory.read_put_same (m : Memory) (n : Nat) (v : Unit24) : (m.put n v).read n = some v := by
  induction m with
  | nil => simp [Memory.put, Memory.read]
  | cons c m ih =>
    obtain ⟨l, u⟩ := c
    rw [Memory.put]
    split_ifs with h1 h2
    · simp [Memory.read]
    · simp [Memory.read]
    · rw [Memory.read, if_neg (by omega), ih]

/-- Every other location reads as before. -/
theorem Memory.read_put_other (m : Memory) {n n' : Nat} (v : Unit24) (h : n' ≠ n) :
    (m.put n v).read n' = m.read n' := by
  induction m with
  | nil => simp [Memory.put, Memory.read, h.symm]
  | cons c m ih =>
    obtain ⟨l, u⟩ := c
    rw [Memory.put]
    split_ifs with h1 h2
    · rw [Memory.read, if_neg (by omega)]
    · rw [Memory.read, Memory.read, if_neg (by omega), if_neg (by omega)]
    · rw [Memory.read, Memory.read, ih]

/-- What putting a unit lists: the location put, and what was listed. -/
theorem Memory.mem_put {m : Memory} {n : Nat} {v : Unit24} {l : Nat}
    (h : l ∈ (m.put n v).map Prod.fst) : l = n ∨ l ∈ m.map Prod.fst := by
  induction m with
  | nil => simpa [Memory.put] using h
  | cons c m ih =>
    obtain ⟨a, u⟩ := c
    rw [Memory.put] at h
    split_ifs at h with h1 h2
    · simpa using h
    · rcases List.mem_cons.mp h with h | h
      · exact .inl h
      · exact .inr (List.mem_cons_of_mem _ h)
    · rcases List.mem_cons.mp h with h | h
      · exact .inr (h ▸ List.mem_cons_self)
      · exact (ih h).imp_right (List.mem_cons_of_mem _)

/-- Putting a unit keeps the canonical form. -/
theorem Memory.put_wf {m : Memory} (h : m.wf) (n : Nat) (v : Unit24) : (m.put n v).wf := by
  induction m with
  | nil => simp [Memory.put, Memory.wf]
  | cons c m ih =>
    obtain ⟨a, u⟩ := c
    obtain ⟨ha, hm⟩ := List.pairwise_cons.mp h
    rw [Memory.put]
    split_ifs with h1 h2
    · refine List.pairwise_cons.mpr ⟨fun l hl => ?_, h⟩
      rcases List.mem_cons.mp hl with rfl | hl
      · exact h1
      · exact h1.trans (ha l hl)
    · exact List.pairwise_cons.mpr ⟨fun l hl => h2 ▸ ha l hl, hm⟩
    · refine List.pairwise_cons.mpr ⟨fun l hl => ?_, ih hm⟩
      rcases Memory.mem_put hl with rfl | hl
      · simp only; omega
      · exact ha l hl

/-- Putting a block keeps the canonical form. -/
theorem Memory.putUnits_wf {m : Memory} (h : m.wf) (l : Nat) (us : List Unit24) : (m.putUnits l us).wf := by
  induction us generalizing m l with
  | nil => exact h
  | cons u us ih => exact ih (Memory.put_wf h l u) (l + 1)

/-- MemWrite keeps the canonical form. -/
theorem Memory.memWrite_wf {m m' : Memory} (h : m.wf) {k : Key} {a : Addr} {us : List Unit24}
    (hw : m.memWrite k a us = some m') : m'.wf := by
  unfold Memory.memWrite at hw
  split at hw
  · exact Option.some.inj hw ▸ Memory.putUnits_wf h _ _
  · cases hw

/-- The storage of withFetchWord keeps the canonical form. -/
theorem placeWord_wf {s : State} (h : s.memory.wf) (nbits w : Nat) : (s.placeWord nbits w).wf := by
  unfold State.placeWord
  split_ifs
  · exact Memory.put_wf (Memory.put_wf h _ _) _ _
  · exact Memory.put_wf h _ _

/-- A block below the units put is as before. -/
theorem Memory.read_putUnits_below (m : Memory) {l n : Nat} (us : List Unit24) (h : n < l) :
    (m.putUnits l us).read n = m.read n := by
  induction us generalizing m l with
  | nil => rfl
  | cons u us ih =>
    rw [Memory.putUnits, ih _ (by omega), Memory.read_put_other _ _ (by omega)]

end Sys2Proof.Machine
end

