-- ==== Sys2Proof/Laws/PerInstr.lean ====
section
/-! SUPPORT. Facts of every instruction as syntax, constructor by constructor: the family EncodedLength. -/

namespace Sys2Proof.Laws.EncodedLength

/-- An instruction's encoding has as many units as LEN says (30_encoding.md R54, R63). -/
def Statement (i : Instr) : Prop := ∀ t : Opc, (encode t i).length = i.units

theorem band (s : Bool) (i j k : Field5) (h : BitVec 24) : Statement (.band s i j k h) := fun _ => rfl
theorem btaf (s : Bool) (i j k : Field5) (h : BitVec 24) : Statement (.btaf s i j k h) := fun _ => rfl
theorem bfaf (s : Bool) (i j k : Field5) (h : BitVec 24) : Statement (.bfaf s i j k h) := fun _ => rfl
theorem bor (s : Bool) (i j k : Field5) (h : BitVec 24) : Statement (.bor s i j k h) := fun _ => rfl
theorem btof (s : Bool) (i j k : Field5) (h : BitVec 24) : Statement (.btof s i j k h) := fun _ => rfl
theorem bfof (s : Bool) (i j k : Field5) (h : BitVec 24) : Statement (.bfof s i j k h) := fun _ => rfl
theorem beq (s : Bool) (i j k : Field5) (h : BitVec 24) : Statement (.beq s i j k h) := fun _ => rfl
theorem bxor (s : Bool) (i j k : Field5) (h : BitVec 24) : Statement (.bxor s i j k h) := fun _ => rfl
theorem bu (s : Bool) (i j k : Field5) : Statement (.bu s i j k) := fun _ => rfl
theorem exit (s : Bool) (i j k : Field5) : Statement (.exit s i j k) := fun _ => rfl
theorem exitl (s : Bool) (i j k : Field5) : Statement (.exitl s i j k) := fun _ => rfl
theorem skand (s : Bool) (i j k : Field5) : Statement (.skand s i j k) := fun _ => rfl
theorem sktaf (s : Bool) (i j k : Field5) : Statement (.sktaf s i j k) := fun _ => rfl
theorem skfaf (s : Bool) (i j k : Field5) : Statement (.skfaf s i j k) := fun _ => rfl
theorem skor (s : Bool) (i j k : Field5) : Statement (.skor s i j k) := fun _ => rfl
theorem sktof (s : Bool) (i j k : Field5) : Statement (.sktof s i j k) := fun _ => rfl
theorem skfof (s : Bool) (i j k : Field5) : Statement (.skfof s i j k) := fun _ => rfl
theorem skeq (s : Bool) (i j k : Field5) : Statement (.skeq s i j k) := fun _ => rfl
theorem skxor (s : Bool) (i j k : Field5) : Statement (.skxor s i j k) := fun _ => rfl
theorem ivib (s : Bool) (i j k : Field5) (h : BitVec 24) : Statement (.ivib s i j k h) := fun _ => rfl
theorem pause (s : Bool) (i j k : Field5) : Statement (.pause s i j k) := fun _ => rfl
theorem pi (s : Bool) (i j k : Field5) : Statement (.pi s i j k) := fun _ => rfl
theorem svc (s : Bool) (i j k : Field5) : Statement (.svc s i j k) := fun _ => rfl
theorem svr (s : Bool) (i j k : Field5) (h : BitVec 24) : Statement (.svr s i j k h) := fun _ => rfl
theorem ir (s : Bool) (i j k : Field5) : Statement (.ir s i j k) := fun _ => rfl
theorem scan (s : Bool) (i j k : Field5) (h : BitVec 24) : Statement (.scan s i j k h) := fun _ => rfl
theorem ic : Statement .ic := fun _ => rfl

end Sys2Proof.Laws.EncodedLength
end

