-- ==== Sys2Proof/Tests/Slice0.lean ====
section
/-! SUPPORT. Tests whose expected results are the vectors of 95_test_vectors.md (named by their ids there)
or worked by hand from the rules, and a named witness for the hypotheses of every statement that has
some. Words are under the provisional codes of 30_encoding.md R62. -/

namespace Sys2Proof.Tests

open Sys2Proof Sys2Proof.Machine

/-! ### Helpers -/

/-- Location numbers under the keys of the test bench. -/
def keyS (a : Nat) : Nat := 1 * 2 ^ 24 + a
def keyP (a : Nat) : Nat := 2 * 2 ^ 24 + a
def keyA (a : Nat) : Nat := 3 * 2 ^ 24 + a

/-- Storage with the supervisor's two entries, a few targets, and scan blocks of two units. -/
def benchMemory : Memory :=
  [(keyS 0, 0x228000#24), (keyS 1, 0x100000#24), (keyS 0x100, 0x220006#24), (keyS 0x101, 0#24),
   (keyS 0x102, 0x100000#24)] ++
  [(keyP 0x100, 0x0C0003#24), (keyP 0x123, 0x100000#24), (keyP 0x303, 0x208000#24),
   (keyP 0x400, 0x208000#24), (keyP 0xFFFFFF, 0x0B0005#24)] ++
  [(keyA 0x40200, 1#24), (keyA 0x40201, 2#24)]

/-- Distinct keys for the four references, scan blocks of two units. -/
def benchInstallation : Installation :=
  { Installation.reset with
    normalKeySupervisory := 1
    normalKeyProblem := 2
    alternateKeySupervisory := 3
    alternateKeyProblem := 4
    scanUnits := 2 }

/-- Problem, enabled, not concurrent, at location 0x100. -/
def bench : State :=
  { State.reset with loc := 0x100, memory := benchMemory, inst := benchInstallation }

/-- A branch of the kind is outstanding, to 0x400. -/
def pending (k : BranchKind) : State := { bench with bstate := .outstanding k, ieba := 0x400 }

/-- Supervisory, disabled, concurrent. -/
def super : State := { bench with s11 := 0xE00000 }

/-- Skipping. -/
def skipper : State := { bench with skip := .skipping }

/-- The bench with condition bits (leftmost bit is c[0]). -/
def withC (c : Word24) : State := { bench with c := c }

/-- The outcome is a next state with a property. -/
def nextHas (r : Result) (p : State → Bool) : Bool :=
  match r with
  | .next t => p t
  | .fault _ => false
  | .refused _ => false

/-- The outcome is that refusal. -/
def refusedAs (r : Result) (x : Refusal) : Bool :=
  match r with
  | .next _ => false
  | .fault _ => false
  | .refused y => y == x

/-! ### WellFormed: ill-formed terms are refused -/

theorem test_wf_ic_is_not_programmable : Instr.wellFormed .ic = false := by decide
theorem test_wf_long_at_odd : placeable true 2 0x000101 = false := by decide
theorem test_wf_long_at_odd_allowed : placeable false 2 0x000101 = true := by decide
theorem test_wf_past_top : placeable false 2 0xFFFFFF = false := by decide
theorem test_wf_short_at_top : placeable true 1 0xFFFFFF = true := by decide
theorem test_wf_opc_not_injective : ¬ Opc.Injective [(.band, 1#8), (.btaf, 1#8)] := by decide

/-- A 7-bit code that loses the outstanding branch, and a "no carry" that is no carry value. -/
def losingInstallation : Installation :=
  { benchInstallation with
    carries := [0]
    bsmCode :=
      { decTable := []
        decOther := { branch := .none, skip := .notSkipping, carry := 0 }
        encTable := []
        encOther := 0 } }

theorem test_wf_code_without_round_trip : ¬ losingInstallation.BsmRoundTrip := by decide
theorem test_wf_no_carry_absent : ¬ ({ losingInstallation with noCarry := 1 } : Installation).CarriesExist := by
  intro h; exact absurd h.1 (by decide)

/-! ### Decoding: words of 95_test_vectors.md 2.1, and of R72 by its formula -/

/-- What a word with its literal decodes to. -/
def dec (u0 u1 : Unit24) : Option Instr := (decode .provisional [u0, u1]).toOption.map Prod.fst

theorem test_dec_band : dec 0x080021 0x000010 = some (.band false 0 1 1 0x000010) := by decide
theorem test_dec_btaf : dec 0x088401 0x000020 = some (.btaf false 1 0 1 0x000020) := by decide
/-- 0x12*2^15 + 3*2^10 + 4*2^5 + 1, R72. -/
theorem test_dec_bfaf : dec 0x090C81 0x000001 = some (.bfaf false 3 4 1 0x000001) := by decide
/-- 0x13*2^15 + 6*2^10 + 7*2^5 + 2. -/
theorem test_dec_bor : dec 0x0998E2 0x000002 = some (.bor false 6 7 2 0x000002) := by decide
/-- 0x14*2^15 + 8*2^10 + 9*2^5 + 3. -/
theorem test_dec_btof : dec 0x0A2123 0x000003 = some (.btof false 8 9 3 0x000003) := by decide
theorem test_dec_bfof : dec 0x8ADF1F 0x7FFFFF = some (.bfof true 23 24 31 0x7FFFFF) := by decide
theorem test_dec_beq : dec 0x0B0005 0x000100 = some (.beq false 0 0 5 0x000100) := by decide
theorem test_dec_bxor : dec 0x0BB1A0 0xFFFFFF = some (.bxor false 12 13 0 0xFFFFFF) := by decide
theorem test_dec_bu : dec 0x8C0003 0 = some (.bu true 0 0 3) := by decide
theorem test_dec_bu_unused : dec 0x0C7FE3 0 = some (.bu false 31 31 3) := by decide
theorem test_dec_exit : dec 0x900000 0 = some (.exit true 0 0 0) := by decide
theorem test_dec_exitl : dec 0x109000 0 = some (.exitl false 4 0 0) := by decide
/-- 0x30*2^15 + 2*2^10 + 3*2^5. -/
theorem test_dec_skand : dec 0x180860 0 = some (.skand false 2 3 0) := by decide
theorem test_dec_sktaf : dec 0x18FFE0 0 = some (.sktaf false 31 31 0) := by decide
/-- 0x32*2^15 + 4*2^10 + 5*2^5. -/
theorem test_dec_skfaf : dec 0x1910A0 0 = some (.skfaf false 4 5 0) := by decide
theorem test_dec_skor : dec 0x9998E0 0 = some (.skor true 6 7 0) := by decide
/-- 0x34*2^15 + 8*2^10 + 9*2^5. -/
theorem test_dec_sktof : dec 0x1A2120 0 = some (.sktof false 8 9 0) := by decide
/-- 0x35*2^15 + 10*2^10 + 11*2^5. -/
theorem test_dec_skfof : dec 0x1AA960 0 = some (.skfof false 10 11 0) := by decide
theorem test_dec_skeq : dec 0x1B7F00 0 = some (.skeq false 31 24 0) := by decide
/-- 0x37*2^15 + 14*2^10 + 15*2^5. -/
theorem test_dec_skxor : dec 0x1BB9E0 0 = some (.skxor false 14 15 0) := by decide
theorem test_dec_ivib : dec 0x200002 0x000300 = some (.ivib false 0 0 2 0x000300) := by decide
theorem test_dec_pause : dec 0x208000 0 = some (.pause false 0 0 0) := by decide
theorem test_dec_pi : dec 0x211FFE 0 = some (.pi false 7 31 30) := by decide
theorem test_dec_svc : dec 0x21FE00 0 = some (.svc false 31 16 0) := by decide
theorem test_dec_svr : dec 0x220006 0 = some (.svr false 0 0 6 0) := by decide
theorem test_dec_ir : dec 0x228000 0 = some (.ir false 0 0 0) := by decide
theorem test_dec_scan : dec 0x230001 0x000001 = some (.scan false 0 0 1 0x000001) := by decide
theorem test_dec_unknown : dec 0x000000 0 = none := by decide
theorem test_dec_long_alone :
    decode .provisional [0x0B0005#24] = .error (.noSecondUnit .beq) := by decide
theorem test_dec_provisional_injective : Opc.provisional.Injective := by decide
theorem test_dec_table_word : decodeTableWord 48 0x0001000B0005 = some (.beq false 0 0 5 0x000100) := by decide

/-! ### Branches: B1 to B15 of 95_test_vectors.md 2.4 -/

/-- A branch became outstanding with that eba, two units on. -/
def branchTo (r : Result) (a : Addr) : Bool :=
  nextHas r fun t => t.ieba == a && t.bstate == .outstanding .br && t.loc == 0x102

/-- Nothing but loc changed, two units on. -/
def noBranch (r : Result) : Bool := nextHas r fun t => t == { bench with c := t.c, x := t.x, loc := 0x102 }

theorem test_band_B1 :
    branchTo (exec (.band false 2 5 4 0x10) ((withC 0x240000).writeX 4 0x1000)) 0x1010 = true := by decide
theorem test_band_B2 : noBranch (exec (.band false 2 5 4 0x10) (withC 0x200000)) = true := by decide
theorem test_btaf_B3 :
    branchTo (exec (.btaf false 0 1 1 2) ((withC 0x800000).writeX 1 0xFFFFFF)) 1 = true := by decide
theorem test_btaf_B4 : noBranch (exec (.btaf false 0 1 1 2) (withC 0xC00000)) = true := by decide
theorem test_bfaf_B5 :
    branchTo (exec (.bfaf false 3 4 0 0) (bench.writeX 0 7)) 7 = true := by decide
theorem test_bfaf_fails : noBranch (exec (.bfaf false 3 4 0 0) (withC 0x080000)) = true := by decide
theorem test_bor_B6 : branchTo (exec (.bor false 6 7 1 9) (withC 0x010000)) 9 = true := by decide
theorem test_bor_absent_bits : noBranch (exec (.bor false 24 31 1 9) (withC 0xFFFFFF)) = true := by decide
theorem test_btof_B7 : noBranch (exec (.btof false 8 9 1 9) (withC 0x004000)) = true := by decide
theorem test_btof_absent_bit : branchTo (exec (.btof false 8 24 1 9) (withC 0)) 9 = true := by decide
theorem test_bfof_B8 : noBranch (exec (.bfof false 10 11 1 9) (withC 0x003000)) = true := by decide
theorem test_bfof_last_bit : branchTo (exec (.bfof false 23 24 1 9) (withC 0xFFFFFF)) 9 = true := by decide
theorem test_beq_B9 : branchTo (exec (.beq false 0 0 5 0x100) (bench.writeX 5 0x20)) 0x120 = true := by decide
theorem test_beq_skipped_B15 : noBranch (exec (.beq true 0 0 5 0x100) skipper) = false ∧
    nextHas (exec (.beq true 0 0 5 0x100) skipper) (fun t => t == { skipper with loc := 0x102 }) = true := by
  decide
theorem test_bxor_B10 : branchTo (exec (.bxor false 12 13 1 9) (withC 0x000800)) 9 = true := by decide
theorem test_bxor_same : noBranch (exec (.bxor false 12 12 1 9) (withC 0x000800)) = true := by decide
theorem test_bu_B11 : nextHas (exec (.bu false 9 9 3) (bench.writeX 3 0x400))
    (fun t => t.ieba == 0x400 && t.bstate == .outstanding .br && t.loc == 0x101) = true := by decide
theorem test_bu_B12 : nextHas (exec (.bu false 0 0 3) ((pending .br).writeX 3 0x999))
    (fun t => t.ieba == 0x400 && t.bstate == .outstanding .br && t.loc == 0x101) = true := by decide

/-! ### EXIT and EXITL: E1 to E7 of 2.5 -/

theorem test_exit_E1 : nextHas (exec (.exit false 0 0 0) { bench with loc := 0x105 })
    (fun t => t == { bench with loc := 0x106 }) = true := by decide
theorem test_exit_E3 : nextHas (exec (.exit true 0 0 0) { pending .br with skip := .skipping })
    (fun t => t == { skipper with ieba := 0x400, loc := 0x400 }) = true := by decide
/-- E4 in the continuing variant: MI, then IC at once while enabled. -/
theorem test_exit_E4_enabled : nextHas (exec (.exit false 0 0 0) { pending .br with ieba := 0x401 })
    (fun t => t.exc.mi && t.loc == 0 && t.mode == interruptionMode && t.bstate == .none) = true := by decide
/-- E4 while disabled: MI, then a fault that names the EXIT. -/
theorem test_exit_E4_disabled :
    (match exec (.exit false 0 0 0) { pending .br with ieba := 0x401, s11 := 0x400000 } with
      | .fault (.missingTarget a t) => a == 0x100 && t.exc.mi && t.bstate == .none
      | _ => false) = true := by decide
theorem test_exitl_E6 : nextHas (exec (.exitl false 4 0 0) { skipper with loc := 0x200 })
    (fun t => t.skip == .notSkipping && t.loc == 0x201) = true := by decide
theorem test_exitl_E7 : nextHas (exec (.exitl true 4 0 0) { pending .br with skip := .skipping })
    (fun t => t == { skipper with ieba := 0x400, loc := 0x400 }) = true := by decide

/-! ### Skips: K1 to K10 of 2.6 -/

/-- The skip state after, one unit on and nothing else changed. -/
def skips (i : Instr) (s : State) (v : SkipState) : Bool :=
  nextHas (exec i s) fun t => t == { s with skip := v, loc := 0x101 }

theorem test_skand_K1 : skips (.skand false 2 3 0) (withC 0x300000) .skipping = true := by decide
theorem test_skand_K2 : skips (.skand false 2 3 0) { skipper with c := 0x200000 } .notSkipping = true := by decide
theorem test_sktaf_K3 : skips (.sktaf false 31 31 0) { skipper with c := 0xFFFFFF } .notSkipping = true := by decide
theorem test_sktaf_R108 : skips (.sktaf false 0 1 0) (withC 0x800000) .skipping = true := by decide
theorem test_skeq_K4 : skips (.skeq false 9 9 0) (withC 0x004000) .skipping = true := by decide
theorem test_sktof_K5 : skips (.sktof false 8 9 0) (withC 0x004000) .notSkipping = true := by decide
theorem test_skfof_K6 : skips (.skfof false 10 11 0) (withC 0x003000) .notSkipping = true := by decide
theorem test_skxor_K7 : skips (.skxor false 14 15 0) (withC 0x000100) .skipping = true := by decide
theorem test_skfaf_K8 : skips (.skfaf false 4 5 0) (withC 0) .skipping = true := by decide
theorem test_skor_K9 : skips (.skor false 6 7 0) skipper .notSkipping = true := by decide
theorem test_skor_K10 : skips (.skor true 6 7 0) skipper .skipping = true := by decide

/-! ### Special purpose branch instructions: V1 to V23 of 2.7 -/

theorem test_ivib_V1 : nextHas (exec (.ivib false 0 0 2 0x300) bench)
    (fun t => t.ieba == 0x300 && t.bstate == .outstanding .ivib && t.loc == 0x102) = true := by decide
theorem test_ivib_exit_V1 :
    nextHas (exec (.exit false 0 0 0) { pending .ivib with ib := [{ key := 2, addr := 0x400, unit := 0 }] })
      (fun t => t.ib == [] && t.bstate == .none && t.loc == 0x400) = true := by decide
theorem test_pause_V4 : nextHas (exec (.pause false 0 0 0) { bench with exc := { noExceptions with pv := true } })
    (fun t => t.s9 == 0x101 && t.loc == 0 && t.exc.pv) = true := by decide
theorem test_pause_V5 :
    nextHas (exec (.pause false 0 0 0) { bench with exc := { noExceptions with pv := true }, s11 := 0x400000 })
      (fun t => t.loc == 0x101 && t.s9 == 0) = true := by decide
theorem test_pi_V6 : nextHas (exec (.pi false 7 31 30) { bench with loc := 0x401 })
    (fun t => t.readX 7 == 0xFFFFFE && t.exc.pi && s11IcMode t.s11 == 0 && t.mode == interruptionMode &&
      t.s9 == 0x402 && t.loc == 0 && !t.exc.mi && t.readX 6 == 0) = true := by decide
theorem test_pi_V7 : refusedAs (exec (.pi false 7 31 30) super) .piWhileDisabled = true := by decide
/-- P6 of 95_test_vectors.md: SVR 6 then PI 6 writes the register of the outstanding SVR. -/
theorem test_pi_P6 :
    refusedAs (exec (.pi false 6 0 1) { pending .svr with ebaReg := some 6 }) (.ebaRegisterWritten 6) = true := by
  decide
theorem test_svc_V8 : nextHas (exec (.svc false 1 0 5) bench)
    (fun t => t.readX 1 == 5 && t.bstate == .outstanding .svc && t.loc == 0x101) = true := by decide
theorem test_svc_V9 : nextHas (exec (.svc false 1 0 5) ((pending .br).writeX 1 0xAAA))
    (fun t => t.readX 1 == 0xAAA && t.bstate == .outstanding .br) = true := by decide
theorem test_svc_exit_V10 :
    nextHas (exec (.exit false 0 0 0) { pending .svc with skip := .skipping, carry := 5, s9 := 7, s10 := 8 })
      (fun t => s11SvcMode t.s11 == 0 &&
        t.mode == { sup := .supervisory, dis := .enabled, conc := .concurrent } &&
        decodeBsm t.inst.bsmCode (s11Bsm t.s11) == { branch := .none, skip := .skipping, carry := 5 } &&
        t.bstate == .none && t.skip == .notSkipping && t.carry == t.inst.noCarry && t.loc == 256 &&
        t.s9 == 7 && t.s10 == 8 && s11IcMode t.s11 == 0) = true := by decide
theorem test_svr_V12 : nextHas (exec (.svr false 0 0 6 0) (super.writeX 6 0x303))
    (fun t => t.ieba == 0x303 && t.bstate == .outstanding .svr && t.loc == 0x102) = true := by decide
theorem test_svr_V14 : nextHas (exec (.svr false 0 0 6 0) bench)
    (fun t => t == { bench with exc := { noExceptions with pv := true }, loc := 0x102 }) = true := by decide
/-- V13: S11 is 0xE00000 with S11[3:9] = 0001101 (none, skipping, carry 5) and S11[13:15] = 000. -/
theorem test_svr_exit_V13 :
    nextHas (exec (.exit false 0 0 0) { pending .svr with ieba := 0x303, s11 := 0xE34000 })
      (fun t => t.mode == { sup := .problem, dis := .enabled, conc := .notConcurrent } &&
        t.bstate == .none && t.skip == .skipping && t.carry == 5 && t.loc == 0x303) = true := by decide
theorem test_ic_V17 :
    nextHas (exec .ic { pending .br with skip := .skipping, carry := 5, loc := 0x123 })
      (fun t => s11IcMode t.s11 == 0 && t.mode == interruptionMode && t.s9 == 0x123 && t.s10 == 0x400 &&
        decodeBsm t.inst.bsmCode (s11Bsm t.s11) ==
          { branch := .outstanding .br, skip := .skipping, carry := 5 } &&
        t.bstate == .none && t.skip == .notSkipping && t.carry == t.inst.noCarry && t.loc == 0) = true := by decide
theorem test_ir_V15 : nextHas (exec (.ir false 0 0 0) bench)
    (fun t => t == { bench with exc := { noExceptions with pv := true }, loc := 0x101 }) = true := by decide
/-- V18, the EXIT: S11[3:9] = 0011101 (BR, skipping, carry 5), S11[10:12] = 000. -/
theorem test_ir_exit_V18 :
    nextHas (exec (.exit false 0 0 0)
        { super with bstate := .outstanding .ir, s9 := 0x123, s10 := 0x400, s11 := 0xE74000, loc := 1 })
      (fun t => t.mode == { sup := .problem, dis := .enabled, conc := .notConcurrent } &&
        t.bstate == .outstanding .br && t.ieba == 0x400 && t.skip == .skipping && t.carry == 5 &&
        t.loc == 0x123) = true := by decide
theorem test_scan_V16 : nextHas (exec (.scan false 0 0 1 1) bench)
    (fun t => t == { bench with exc := { noExceptions with pv := true }, loc := 0x102 }) = true := by decide
theorem test_scan_address_V20 : (bench.writeX 1 0x0403FF).scanAddress 1 1 = 0x040400 := by decide
theorem test_scan_address_V21 : (bench.writeX 1 0x0403FF).scanAddress 1 0 = 0x040200 := by decide
theorem test_scan_address_V22 : (bench.writeX 1 0xFFFFFF).scanAddress 1 0x201 = 0x000200 := by decide
/-- V23 while disabled. -/
theorem test_scan_V23 :
    (match exec (.scan false 0 0 1 1) (super.writeX 1 0x0403FF) with
      | .fault (.missingScanBlock a t) => a == 0x100 && t.exc.ma && t.loc == 0x100
      | _ => false) = true := by decide

/-! ### The step -/

theorem test_step_from_reset : nextHas (step (State.reset.withFetchWord 24 0x0C0003))
    (fun t => t.bstate == .outstanding .br && t.loc == 1 && t.tick == 1) = true := by decide
theorem test_step_reset_has_no_program : refusedAs (step State.reset) (.missingInstructionUnit 0 0) = true := by
  decide
theorem test_step_unknown : refusedAs (step (State.reset.withFetchWord 24 0)) (.unknownOperationCode 0) = true := by
  decide
/-- The last decoder corner case of 2.1: a long instruction at 0xFFFFFF. -/
theorem test_step_past_top : refusedAs (step { bench with loc := 0xFFFFFF }) .pastTopOfStorage = true := by decide

/-! ### Witnesses: states and operands that meet the hypotheses of each statement

Each theorem lists the hypotheses of the statement it is named after, clause by clause, at values on the
boundary where a clause has one. -/

theorem next_of {r : Result} {p : State → Bool} (h : nextHas r p = true) : ∃ t, r = .next t ∧ p t = true := by
  cases r with
  | next t => exact ⟨t, rfl, h⟩
  | fault _ => cases h
  | refused _ => cases h

/-- The last location from which a long instruction can advance, and a short one. -/
def lastLong : State := { bench with loc := 0xFFFFFD }
def lastShort : State := { bench with loc := 0xFFFFFE }

/-- The unit at a location of the bench is present. -/
def present (s : State) (m : Privilege) (a : Addr) : Prop := s.isPresent (s.normalKey m) a = true

theorem witness_DecodeOfEncodeIsIdentity :
    Opc.provisional.Injective ∧ (Instr.scan true 31 31 31 0xFFFFFF).wellFormed = true := by decide

theorem witness_EncodeOfDecodeIsIdentity :
    decode .provisional [0x0C7FE3#24, 5#24] = .ok (.bu false 31 31 3, [5#24]) := by decide

theorem witness_EncodingFormula : (1023 : Nat) < 2 ^ 10 := by decide

theorem witness_LiteralIsSignExtended :
    (literalJk 15 31).toNat < 2 ^ 9 ∧ 2 ^ 9 ≤ (literalJk 16 0).toNat := by decide

theorem witness_ConditionFunctionsAndBits : (23#5).toNat ≤ 23 ∧ 24 ≤ (24#5).toNat := by decide

theorem witness_ConditionalBranchStep : lastLong.loc.toNat + 2 < 2 ^ 24 := by decide

theorem witness_BranchSuccessConditions :
    lastLong.loc.toNat + 2 < 2 ^ 24 ∧ lastLong.bstate = .none ∧
      ¬ (lastLong.skip = .skipping ∧ true = true) := by decide

theorem witness_UnconditionalBranchStep : lastShort.loc.toNat + 1 < 2 ^ 24 := by decide

theorem witness_OutstandingBranchGoverns_any_mode :
    Op.svc ∈ [Op.band, .btaf, .bfaf, .bor, .btof, .bfof, .beq, .bxor, .bu, .ivib, .svc] ∧
      (pending .br).bstate ≠ .none ∧ (pending .br).loc.toNat + opLen .svc < 2 ^ 24 := by decide

theorem witness_OutstandingBranchGoverns_supervisory :
    (Op.ir ∈ [Op.svr, .ir] ∧ ({ super with bstate := .outstanding .ir } : State).mode.sup = .supervisory) ∧
      ({ super with bstate := .outstanding .ir } : State).bstate ≠ .none ∧
      super.loc.toNat + opLen .ir < 2 ^ 24 := by decide

theorem witness_SkippingRule :
    (skipper.skip = .skipping ∧ isExitOp .scan = false ∧ skipper.loc.toNat + opLen .scan < 2 ^ 24) ∧
      bench.skip = .notSkipping := by decide

theorem witness_SkipStep : lastShort.loc.toNat + 1 < 2 ^ 24 := by decide

theorem witness_SkipConditions :
    lastShort.loc.toNat + 1 < 2 ^ 24 ∧ ¬ (lastShort.skip = .skipping ∧ true = true) := by decide

theorem witness_SkipStateAlteredOnlyAsTabled_skip :
    ∃ t, exec (.skfaf false 31 31 0) bench = .next t ∧ t.skip ≠ bench.skip := by
  obtain ⟨t, h, hp⟩ := next_of (p := fun t => t.skip == .skipping)
    (show nextHas (exec (.skfaf false 31 31 0) bench) _ = true by decide)
  exact ⟨t, h, by rw [eq_of_beq hp]; decide⟩

theorem witness_SkipStateAlteredOnlyAsTabled_exit :
    ∃ t, exec (.exit false 0 0 0) { pending .svc with skip := .skipping } = .next t ∧
      t.skip ≠ SkipState.skipping := by
  obtain ⟨t, h, hp⟩ := next_of (p := fun t => t.skip == .notSkipping)
    (show nextHas (exec (.exit false 0 0 0) { pending .svc with skip := .skipping }) _ = true by decide)
  exact ⟨t, h, by rw [eq_of_beq hp]; decide⟩

theorem witness_ExitTakesTheBranch :
    (bench.bstate = .none ∧ lastShort.loc.toNat + 1 < 2 ^ 24) ∧
      (pending .br).bstate = .outstanding .br ∧
      (pending .br).isPresent ((pending .br).normalKey (pending .br).mode.sup) (pending .br).ieba = true := by
  decide

/-- A branch to the missing location 0x401, enabled and disabled. -/
def lost : State := { pending .br with ieba := 0x401 }
def lostDisabled : State := { lost with s11 := 0x400000 }

/-- The two premises of MissingTargetInterruptsOrStops beside the missing target. -/
abbrev returnable (s : State) : Prop :=
  (s.bstate = .outstanding .svr → s.bsmAtExit.branch = .none) ∧
    (s.bstate = .outstanding .ir → watchedBranch s.bsmAtExit.branch = true → s.savedEbaWritten = none)

/-- The premises of its first and of its second clause. -/
abbrev lostEnabled (s : State) : Prop :=
  s.exitTargetMissing = true ∧ returnable s ∧ (decodeMode s.inst.modeEnc s.modeAtExit).dis = .enabled ∧
    s.isPresent (s.normalKey .supervisory) 0 = true
abbrev lostStopped (s : State) : Prop :=
  s.exitTargetMissing = true ∧ returnable s ∧ (decodeMode s.inst.modeEnc s.modeAtExit).dis = .disabled

theorem witness_MissingTargetInterruptsOrStops_br : lostEnabled lost ∧ lostStopped lostDisabled := by decide

theorem witness_MissingTargetInterruptsOrStops_ivib :
    lostEnabled { pending .ivib with ieba := 0x401 } ∧
      lostStopped { pending .ivib with ieba := 0x401, s11 := 0x400000 } := by decide

/-- S11[3:9] none, skipping, carry 5; S11[13:15] 000 and 010 (disabled). -/
theorem witness_MissingTargetInterruptsOrStops_svr :
    lostEnabled { pending .svr with ieba := 0x401, s11 := 0xE34000 } ∧
      lostStopped { pending .svr with ieba := 0x401, s11 := 0xE34200 } := by decide

/-- S11[3:9] IVIB, skipping, carry 5; S11[10:12] 000 and 010 (disabled). -/
theorem witness_MissingTargetInterruptsOrStops_ir :
    lostEnabled { pending .ir with s9 := 0x401, s11 := 0xEB4000, savedEbaReg := some 6 } ∧
      lostStopped { pending .ir with s9 := 0x401, s11 := 0xEB5000, savedEbaReg := some 6 } := by decide

theorem witness_ExitlIsThreeFunctions :
    (¬ (skipper.skip = .skipping ∧ false = true) ∧ skipper.bstate = .none ∧ skipper.loc.toNat + 1 < 2 ^ 24) ∧
    (¬ ((pending .br).skip = .skipping ∧ true = true) ∧ (pending .br).bstate = .outstanding .br ∧
      (pending .br).isPresent ((pending .br).normalKey (pending .br).mode.sup) (pending .br).ieba = true) := by
  decide

theorem witness_IvibStep : lastLong.loc.toNat + 2 < 2 ^ 24 ∧ ¬ (lastLong.skip = .skipping ∧ true = true) := by
  decide

theorem witness_IvibEmptiesBuffersAtExit :
    (pending .ivib).bstate = .outstanding .ivib ∧
      (pending .ivib).isPresent ((pending .ivib).normalKey (pending .ivib).mode.sup) (pending .ivib).ieba = true := by
  decide

/-- PV is set and the mode is enabled. -/
def asking : State := { bench with exc := { noExceptions with pv := true } }

theorem witness_PauseStep :
    (lastShort.loc.toNat + 1 < 2 ^ 24 ∧ ¬ (lastShort.skip = .skipping ∧ true = true) ∧
      ¬ (lastShort.mode.dis = .enabled ∧ (excAny lastShort.exc = true ∨ lastShort.outsideAsks = true))) ∧
    (asking.loc.toNat + 1 < 2 ^ 24 ∧ ¬ (asking.skip = .skipping ∧ true = true) ∧
      asking.mode.dis = .enabled ∧ (excAny asking.exc = true ∨ asking.outsideAsks = true)) := by decide

theorem witness_PiStep :
    lastShort.loc.toNat + 1 < 2 ^ 24 ∧ ¬ (lastShort.skip = .skipping ∧ true = true) ∧
      lastShort.mode.dis = .enabled ∧ lastShort.isPresent (lastShort.normalKey .supervisory) 0 = true ∧
      ¬ ((lastShort.bstate = .outstanding .ivib ∨ lastShort.bstate = .outstanding .svr) ∧
        lastShort.ebaReg = some 31) := by decide

theorem witness_PiStep_other_register_watched :
    (pending .svr).mode.dis = .enabled ∧
      ¬ (((pending .svr).bstate = .outstanding .ivib ∨ (pending .svr).bstate = .outstanding .svr) ∧
        ({ pending .svr with ebaReg := some 6 } : State).ebaReg = some 7) := by decide

theorem witness_PiRefusals :
    (¬ ((pending .ivib).skip = .skipping ∧ true = true) ∧
      ((pending .ivib).bstate = .outstanding .ivib ∨ (pending .ivib).bstate = .outstanding .svr) ∧
      ({ pending .ivib with ebaReg := some 6 } : State).ebaReg = some 6) ∧
    (¬ (super.skip = .skipping ∧ true = true) ∧
      ¬ ((super.bstate = .outstanding .ivib ∨ super.bstate = .outstanding .svr) ∧ super.ebaReg = some 6) ∧
      super.mode.dis = .disabled) := by decide

/-- Disabled, with an SVR outstanding whose register is another one than PI's. -/
def superReturning : State := { super with bstate := .outstanding .svr, ebaReg := some 6 }

theorem witness_PiRefusals_other_register_watched :
    ¬ (superReturning.skip = .skipping ∧ true = true) ∧
      ¬ ((superReturning.bstate = .outstanding .ivib ∨ superReturning.bstate = .outstanding .svr) ∧
        superReturning.ebaReg = some 7) ∧ superReturning.mode.dis = .disabled := by decide

theorem witness_SvcStep :
    lastShort.loc.toNat + 1 < 2 ^ 24 ∧ ¬ (lastShort.skip = .skipping ∧ true = true) := by decide

theorem witness_SvcAtExit :
    (pending .svc).bstate = .outstanding .svc ∧
      (pending .svc).isPresent ((pending .svc).normalKey .supervisory) 256 = true := by decide

theorem witness_SvrStep :
    super.loc.toNat + 2 < 2 ^ 24 ∧ ¬ (super.skip = .skipping ∧ true = true) ∧
      super.mode.sup = .supervisory := by decide

/-- An SVR outstanding to 0x303 with S11[3:9] none, skipping, carry 5; and the same with S11[3:9] an
outstanding branch. -/
def returning : State := { pending .svr with ieba := 0x303, s11 := 0xE34000 }
def returningLost : State := { pending .svr with ieba := 0x303, s11 := 0xE74000 }

theorem witness_SvrAtExit :
    (returning.bstate = .outstanding .svr ∧
      (decodeBsm returning.inst.bsmCode (s11Bsm returning.s11)).branch = .none ∧
      returning.isPresent
        (returning.normalKey (decodeMode returning.inst.modeEnc (s11SvcMode returning.s11)).sup)
        returning.ieba = true) ∧
    (returningLost.bstate = .outstanding .svr ∧
      (decodeBsm returningLost.inst.bsmCode (s11Bsm returningLost.s11)).branch ≠ .none) := by decide

theorem witness_InterruptCall :
    bench.isPresent (bench.normalKey .supervisory) 0 = true ∧ (pending .br).bstate ≠ .none := by decide

theorem witness_IrStep :
    super.loc.toNat + 1 < 2 ^ 24 ∧ ¬ (super.skip = .skipping ∧ true = true) ∧
      super.mode.sup = .supervisory := by decide

/-- An IR outstanding, to 0x123 in problem mode, as in vector V18. -/
def resuming : State :=
  { super with bstate := .outstanding .ir, s9 := 0x123, s10 := 0x400, s11 := 0xE74000, loc := 1 }

/-- The same where the interrupted program had an IVIB outstanding, S11[3:9] = 0101101, formed from X[6]. -/
def resumingIvib : State := { resuming with s11 := 0xEB4000, savedEbaReg := some 6 }

theorem witness_IrAtExit (s : State) (h : s = resuming ∨ s = resumingIvib) :
    s.bstate = .outstanding .ir ∧
      s.isPresent (s.normalKey (decodeMode s.inst.modeEnc (s11IcMode s.s11)).sup) s.s9 = true ∧
      (watchedBranch (decodeBsm s.inst.bsmCode (s11Bsm s.s11)).branch = true → s.savedEbaWritten = none) := by
  rcases h with rfl | rfl <;> decide

/-- R131 through an interruption: the routine's SVC 6 records the write, and the IR's EXIT is refused. -/
theorem test_svc_in_routine_records_write :
    nextHas (exec (.svc false 6 0 5) { super with savedEbaReg := some 6 })
      (fun t => t.savedEbaWritten == some 6) = true := by decide
theorem test_svc_in_routine_other_register :
    nextHas (exec (.svc false 7 0 5) { super with savedEbaReg := some 6 })
      (fun t => t.savedEbaWritten == none) = true := by decide
theorem test_ir_exit_written_register :
    refusedAs (exec (.exit false 0 0 0) { resumingIvib with savedEbaWritten := some 6 })
      (.ebaRegisterWritten 6) = true := by decide
theorem test_ir_exit_unwritten_register :
    nextHas (exec (.exit false 0 0 0) resumingIvib)
      (fun t => t.bstate == .outstanding .ivib && t.ebaReg == some 6 && t.loc == 0x123) = true := by decide

/-- An interrupted program with a branch outstanding, skipping, carry 5. -/
def midway : State := { pending .br with skip := .skipping, carry := 5 }

theorem witness_InterruptionIsInvisible :
    midway.isPresent (midway.normalKey .supervisory) 0 = true ∧
      midway.isPresent (midway.normalKey midway.mode.sup) midway.loc = true ∧
      decodeBsm midway.inst.bsmCode (encodeBsm midway.inst.bsmCode midway.bsm) = midway.bsm ∧
      midway.bstate ≠ .none := by decide

theorem witness_SupervisorCallReturns :
    skipper.bstate = .none ∧ skipper.loc.toNat + 1 < 2 ^ 24 ∧
      skipper.isPresent (skipper.normalKey .supervisory) 256 = true ∧
      skipper.isPresent (skipper.normalKey skipper.mode.sup)
        ((skipper.writeX 1 (sext24 (literalJk 0 5))).readX 1 + 0x3FB) = true ∧
      decodeBsm skipper.inst.bsmCode
          (encodeBsm skipper.inst.bsmCode { branch := .none, skip := skipper.skip, carry := skipper.carry }) =
        { branch := .none, skip := skipper.skip, carry := skipper.carry } := by decide

theorem witness_PrivilegedInstructionsWithheld :
    Op.scan ∈ [Op.svr, .ir, .scan] ∧ ¬ (lastLong.skip = .skipping ∧ true = true) ∧
      lastLong.mode.sup = .problem ∧ lastLong.loc.toNat + opLen .scan < 2 ^ 24 ∧ lastLong.bstate = .none := by
  decide

theorem witness_ProblemModeIsConfined :
    ∃ t, exec (.exit false 0 0 0) (pending .svc) = .next t ∧ (pending .svc).mode.sup = .problem ∧
      (pending .svc).bstate ≠ .outstanding .svr ∧ (pending .svc).bstate ≠ .outstanding .ir := by
  obtain ⟨t, h, -⟩ := next_of (p := fun _ => true)
    (show nextHas (exec (.exit false 0 0 0) (pending .svc)) _ = true by decide)
  exact ⟨t, h, by decide⟩

/-- A supervisor whose X[1] addresses a present scan block, and whose X[2] a missing one. -/
def scanner : State := { (super.writeX 1 0x0403FF).writeX 2 0x050000 with s11 := 0x800000 }

theorem witness_ScanLoadsTheMachine :
    ¬ (scanner.skip = .skipping ∧ true = true) ∧ scanner.mode.sup = .supervisory ∧
      scanner.memory.memRead (scanner.alternateKey .supervisory) ((scanner.readX 1 + 0) &&& 0xFFFE00#24)
        scanner.inst.scanUnits.val = some [1#24, 2#24] := by decide

theorem witness_ScanOfMissingBlock_enabled :
    ¬ (scanner.skip = .skipping ∧ true = true) ∧ scanner.mode.sup = .supervisory ∧
      scanner.memory.memRead (scanner.alternateKey .supervisory) ((scanner.readX 2 + 0) &&& 0xFFFE00#24)
        scanner.inst.scanUnits.val = none ∧
      scanner.mode.dis = .enabled ∧ scanner.isPresent (scanner.normalKey .supervisory) 0 = true := by decide

theorem witness_ScanOfMissingBlock_disabled :
    ¬ (super.skip = .skipping ∧ true = true) ∧ super.mode.sup = .supervisory ∧
      super.memory.memRead (super.alternateKey .supervisory) ((super.readX 2 + 0) &&& 0xFFFE00#24)
        super.inst.scanUnits.val = none ∧ super.mode.dis = .disabled := by decide

theorem witness_StorageIsNeverWritten : ∃ t, exec (.bu false 0 0 3) bench = .next t := by
  obtain ⟨t, h, -⟩ := next_of (p := fun _ => true)
    (show nextHas (exec (.bu false 0 0 3) bench) _ = true by decide)
  exact ⟨t, h⟩

theorem notLoading_svc : ¬ bench.loadsMachine (.svc false 1 0 5) := by
  rintro ⟨_, _, _, _, _, h, _⟩
  cases h

theorem witness_RegistersWrittenOnlyAsListed :
    ∃ t, exec (.svc false 1 0 5) bench = .next t ∧ ¬ bench.loadsMachine (.svc false 1 0 5) := by
  obtain ⟨t, h, -⟩ := next_of (p := fun _ => true)
    (show nextHas (exec (.svc false 1 0 5) bench) _ = true by decide)
  exact ⟨t, h, notLoading_svc⟩

theorem witness_SpecialRegistersWrittenOnlyAsListed :
    ∃ t, exec .ic bench = .next t ∧ ¬ bench.loadsMachine .ic := by
  obtain ⟨t, h, -⟩ := next_of (p := fun _ => true) (show nextHas (exec .ic bench) _ = true by decide)
  refine ⟨t, h, ?_⟩
  rintro ⟨_, _, _, _, _, h, _⟩
  cases h

theorem notLoading_scan : ¬ bench.loadsMachine (.scan false 0 0 1 1) := by
  rintro ⟨_, _, _, _, _, _, _, h, _⟩
  exact absurd h (by decide)

theorem witness_ExceptionBitsOnlySet :
    ∃ t, exec (.scan false 0 0 1 1) bench = .next t ∧ ¬ bench.loadsMachine (.scan false 0 0 1 1) ∧
      t.exc.pv ≠ bench.exc.pv := by
  obtain ⟨t, h, hp⟩ := next_of (p := fun t => t.exc.pv)
    (show nextHas (exec (.scan false 0 0 1 1) bench) _ = true by decide)
  exact ⟨t, h, notLoading_scan, by rw [hp]; decide⟩

theorem witness_SequentialAdvance :
    ∃ t, exec (Op.scan.term false 0 0 1 1) bench = .next t ∧
      ¬ (isExitOp .scan = true ∧ bench.bstate ≠ .none) ∧ ¬ bench.loadsMachine (Op.scan.term false 0 0 1 1) := by
  obtain ⟨t, h, -⟩ := next_of (p := fun _ => true)
    (show nextHas (exec (Op.scan.term false 0 0 1 1) bench) _ = true by decide)
  exact ⟨t, h, by decide, notLoading_scan⟩

/-- The top of storage. -/
def top : State := { bench with loc := 0xFFFFFF }

theorem witness_PastTopOfStorageRefused :
    (2 ^ 24 ≤ top.loc.toNat + opLen .bu ∧ Op.bu ∉ [Op.exit, .exitl, .pi, .scan]) ∧
    (2 ^ 24 ≤ top.loc.toNat + opLen .exitl ∧ isExitOp .exitl = true ∧ top.bstate = .none) ∧
    (2 ^ 24 ≤ top.loc.toNat + opLen .pi ∧ top.mode.dis = .enabled ∧ top.bstate = .none) ∧
    (2 ^ 24 ≤ lastShort.loc.toNat + opLen .scan ∧ lastShort.mode.sup = .problem) := by decide

/-- No storage at all. -/
def bare : State := { pending .svc with memory := [] }

theorem witness_MissingFixedLocationRefused :
    bare.isPresent (bare.normalKey .supervisory) 0 = false ∧ bare.bstate = .outstanding .svc ∧
      bare.isPresent (bare.normalKey .supervisory) 256 = false := by decide

theorem witness_StepRunsDecodedInstruction :
    bench.takesIc = false ∧ bench.inst.opc.Injective ∧ (Instr.bu false 0 0 3).wellFormed = true ∧
      bench.memory.memRead (bench.normalKey bench.mode.sup) bench.loc (Instr.bu false 0 0 3).units =
        some (encode bench.inst.opc (.bu false 0 0 3)) ∧
      (bench.inst.longAligned = true → (Instr.bu false 0 0 3).units = 2 → bench.loc.toNat % 2 = 0) ∧
      bench.moment.fetchesStorage := by decide

theorem witness_PlacedWordIsRun :
    decodeTableWord 48 0x0001000B0005 = some (.beq false 0 0 5 0x100) ∧ lastShort.inst.opc = Opc.provisional ∧
      lastShort.inst.longAligned = false ∧ lastShort.loc.toNat + 2 ≤ 2 ^ 24 := by decide

/-- Storage at 0x100 under the problem key holds the unit. -/
def holding (u : Unit24) : State := { bench with memory := [(keyP 0x100, u)] }

theorem witness_UnknownOperationCodeRefused :
    (holding 0).takesIc = false ∧ (holding 0).moment.fetchesStorage ∧
      (holding 0).memory.read (location ((holding 0).normalKey (holding 0).mode.sup) (holding 0).loc) = some 0 := by
  decide

theorem witness_UnknownOperationCodeRefused_code (op : Op) :
    (holding 0).inst.opc.code op ≠ operationField 0#24 := by
  cases op <;> decide

/-- The four clauses of FetchRefusals: nothing there; odd under LONG_ALIGNED; at the top; half there. -/
def longOdd : State :=
  { bench with
    loc := 0x101
    memory := [(keyP 0x101, 0x0B0005#24)]
    inst := { benchInstallation with longAligned := true } }

theorem witness_FetchRefusals_missing :
    bare.takesIc = false ∧ bare.moment.fetchesStorage ∧
      bare.memory.read (location (bare.normalKey bare.mode.sup) bare.loc) = none := by decide

theorem witness_FetchRefusals_odd :
    longOdd.takesIc = false ∧ longOdd.moment.fetchesStorage ∧
      longOdd.memory.read (location (longOdd.normalKey longOdd.mode.sup) longOdd.loc) = some 0x0B0005#24 ∧
      lengthOf longOdd.inst.opc 0x0B0005#24 = some 2 ∧
      longOdd.inst.longAligned = true ∧ longOdd.loc.toNat % 2 = 1 := by decide

theorem witness_FetchRefusals_top :
    top.takesIc = false ∧ top.moment.fetchesStorage ∧
      top.memory.read (location (top.normalKey top.mode.sup) top.loc) = some 0x0B0005#24 ∧
      lengthOf top.inst.opc 0x0B0005#24 = some 2 ∧
      top.inst.longAligned = false ∧ top.loc.toNat = 2 ^ 24 - 1 := by decide

theorem witness_FetchRefusals_half :
    (holding 0x0B0005).takesIc = false ∧ (holding 0x0B0005).moment.fetchesStorage ∧
      (holding 0x0B0005).memory.read (keyP 0x100) = some 0x0B0005#24 ∧
      lengthOf (holding 0x0B0005).inst.opc 0x0B0005#24 = some 2 ∧
      (holding 0x0B0005).inst.longAligned = false ∧ (holding 0x0B0005).loc.toNat < 2 ^ 24 - 1 ∧
      (holding 0x0B0005).memory.read
        (location ((holding 0x0B0005).normalKey (holding 0x0B0005).mode.sup) ((holding 0x0B0005).loc + 1)) =
          none := by decide

/-- The same at the even location 0x100 under LONG_ALIGNED. -/
def longEven : State :=
  { holding 0x0B0005 with inst := { benchInstallation with longAligned := true } }

theorem witness_FetchRefusals_half_even :
    longEven.takesIc = false ∧ longEven.moment.fetchesStorage ∧
      longEven.memory.read (location (longEven.normalKey longEven.mode.sup) longEven.loc) = some 0x0B0005#24 ∧
      lengthOf longEven.inst.opc 0x0B0005#24 = some 2 ∧ longEven.inst.longAligned = true ∧
      longEven.loc.toNat % 2 = 0 ∧ longEven.loc.toNat < 2 ^ 24 - 1 ∧
      longEven.memory.read (location (longEven.normalKey longEven.mode.sup) (longEven.loc + 1)) = none := by decide

/-- A moment at which the outside asks and a permitted IC is taken. -/
def askNow : Moment :=
  { asks := true, takeIc := true, clear := noExceptions, pick0 := none, pick1 := none, prefetch := [] }

def interrupted : State := { bench with schedule := [askNow] }
def heldOff : State := { interrupted with s11 := 0x400000 }

theorem witness_InterruptionBetweenInstructions_taken :
    interrupted.moment.takeIc = true ∧ interrupted.mode.dis = .enabled ∧
      (excAny interrupted.begin.exc = true ∨ interrupted.moment.asks = true) := by decide

theorem witness_InterruptionBetweenInstructions_not :
    heldOff.mode.dis = .disabled ∧ heldOff.begin.fetch heldOff.moment = .ok (.bu false 0 0 3) := by
  refine ⟨by decide, ?_⟩
  rfl

/-- The step of each. -/
theorem test_step_interrupted : nextHas (step interrupted) (fun t => t.loc == 0 && t.s9 == 0x100) = true := by decide
theorem test_step_held_off :
    nextHas (step heldOff) (fun t => t.bstate == .outstanding .br && t.loc == 0x101) = true := by decide

/-- Buffers that agree with storage, and a moment that fetches from them. -/
def buffered : State :=
  { bench with
    ib := [{ key := 2, addr := 0x100, unit := 0x0C0003#24 }]
    schedule := [{ askNow with asks := false, pick0 := some 0, prefetch := [(2, 0x123)] }] }

theorem witness_CoherentBuffersAreUnobservable : buffered.Coherent := by decide

theorem witness_InvariantKeptByEveryStep :
    ({ pending .ivib with ebaReg := some 2 } : State).Inv ∧ bench.Inv ∧ ∃ s', step bench = .next s' := by
  refine ⟨by decide, by decide, ?_⟩
  obtain ⟨t, h, -⟩ := next_of (p := fun _ => true) (show nextHas (step bench) _ = true by decide)
  exact ⟨t, h⟩

theorem witness_CoherenceKeptByEveryStep :
    buffered.Coherent ∧ (∃ s', step buffered = .next s') ∧
      ∀ f a b k h, buffered.begin.fetch buffered.moment ≠ .ok (.scan f a b k h) := by
  refine ⟨by decide, ?_, ?_⟩
  · obtain ⟨t, h, -⟩ := next_of (p := fun _ => true) (show nextHas (step buffered) _ = true by decide)
    exact ⟨t, h⟩
  · intro f a b k h e
    rw [show buffered.begin.fetch buffered.moment = .ok (.bu false 0 0 3) from rfl] at e
    cases e

theorem witness_MemReadIsConsecutiveUnits :
    (0xFFFFFF#24).toNat + 1 ≤ 2 ^ 24 ∧ 2 ^ 24 < (0xFFFFFF#24).toNat + 2 := by decide

theorem witness_MemWriteThenMemRead :
    Memory.memWrite benchMemory 3 0x40200 [7#24, 8#24] ≠ none ∧ keyA 0x401FF < location 3 0x40200 := by decide

/-- The recorded register, written and not yet written. -/
theorem witness_WrittenEbaRegisterRefusedAtReturn_exit :
    let s : State := { resumingIvib with savedEbaWritten := some 6 }
    s.savedEbaReg = some 6 ∧ s.savedEbaWritten = some 6 ∧ s.bstate = .outstanding .ir ∧
      watchedBranch (decodeBsm s.inst.bsmCode (s11Bsm s.s11)).branch = true ∧
      ¬ (s.skip = .skipping ∧ true = true) := by decide

theorem witness_WrittenEbaRegisterRefusedAtReturn_exitl :
    resumingIvib.savedEbaReg = some 6 ∧ resumingIvib.savedEbaWritten = none ∧
      resumingIvib.bstate = .outstanding .ir ∧
      watchedBranch (decodeBsm resumingIvib.inst.bsmCode (s11Bsm resumingIvib.s11)).branch = true ∧
      ¬ (resumingIvib.skip = .skipping ∧ true = true) := by decide

theorem witness_WrittenEbaRegisterRefusedAtReturn_recorded :
    let s : State := { lastShort with savedEbaReg := some 31 }
    s.savedEbaReg = some 31 ∧ s.savedEbaWritten = none ∧ s.bstate = .none ∧
      ¬ (s.skip = .skipping ∧ true = true) ∧ s.loc.toNat + 1 < 2 ^ 24 := by decide

/-- A problem program with a branch outstanding, and a supervisor with an IR outstanding to it. -/
theorem bench_wellFormed : benchInstallation.wellFormed := by decide

theorem witness_ReturnsStayPrivileged_problem :
    bench.ReturnsPrivileged ∧ bench.mode.sup = .problem ∧ (∃ s', step bench = .next s') ∧
      ∀ f a b k h, bench.begin.fetch bench.moment ≠ .ok (.scan f a b k h) := by
  refine ⟨⟨bench_wellFormed, by decide⟩, by decide, ?_, ?_⟩
  · obtain ⟨t, h, -⟩ := next_of (p := fun _ => true) (show nextHas (step bench) _ = true by decide)
    exact ⟨t, h⟩
  · intro f a b k h e
    rw [show bench.begin.fetch bench.moment = .ok (.bu false 0 0 3) from rfl] at e
    cases e

theorem witness_ReturnsStayPrivileged_returning :
    resumingIvib.ReturnsPrivileged ∧ (∃ s', step resumingIvib = .next s') ∧
      ∀ f a b k h, resumingIvib.begin.fetch resumingIvib.moment ≠ .ok (.scan f a b k h) := by
  refine ⟨⟨bench_wellFormed, by decide⟩, ?_, ?_⟩
  · obtain ⟨t, h, -⟩ := next_of (p := fun t => t.bstate == .outstanding .ivib)
      (show nextHas (step resumingIvib) _ = true by decide)
    exact ⟨t, h⟩
  · intro f a b k h e
    rw [show resumingIvib.begin.fetch resumingIvib.moment = .ok (.exit false 0 0 0) from rfl] at e
    cases e

end Sys2Proof.Tests
end

section
/-! PROOFS of the family 10_state: which instructions write X, c, S9, S10 and S11, and where loc goes.
Every statement is read off `exec_effect`, through three lemmas about an `Effect` that loads no processor:
what it always keeps, what it does to X, and that it proceeds unless it enters an interruption. -/

namespace Sys2Proof.Machine

variable {s t : State} {i : Instr}

/-! ### The states from which an SVR or IR takes its branch -/

@[simp] theorem afterSvr_x (s : State) : s.afterSvr.x = s.x := rfl
@[simp] theorem afterSvr_c (s : State) : s.afterSvr.c = s.c := rfl
@[simp] theorem afterSvr_s11 (s : State) : s.afterSvr.s11 =
    s11Of (s11SvcMode s.s11) (s11Bsm s.s11) (s11IcMode s.s11) (s11SvcMode s.s11) (s11Rest s.s11) := rfl
@[simp] theorem afterIr_x (s : State) : s.afterIr.x = s.x := rfl
@[simp] theorem afterIr_c (s : State) : s.afterIr.c = s.c := rfl
@[simp] theorem afterIr_s11 (s : State) : s.afterIr.s11 =
    s11Of (s11IcMode s.s11) (s11Bsm s.s11) (s11IcMode s.s11) (s11SvcMode s.s11) (s11Rest s.s11) := rfl

/-! ### Registers, locations and interruptions -/

/-- A state whose X is that of a single register write differs from the old one in that register alone. -/
theorem readX_of_x_eq_writeX {n : Field5} {v : Word24} (h : t.x = (s.writeX n v).x) :
    t.readX n = v ∧ ∀ m, m ≠ n → t.readX m = s.readX m := by
  have hread (m : Field5) : t.readX m = (s.writeX n v).readX m := by simp only [State.readX, h]
  exact ⟨(hread n).trans (readX_writeX_same n v), fun m hm => (hread m).trans (readX_writeX_other v hm)⟩

/-- Below the top of storage the next location does not wrap (10_state.md R13, R14). -/
theorem toNat_nextLoc {len : Nat} (h : s.loc.toNat + len < 2 ^ 24) :
    (s.nextLoc len).toNat = s.loc.toNat + len := by
  simp only [State.nextLoc, BitVec.toNat_add, BitVec.toNat_ofNat]
  omega

theorem justInterrupted_enterInterruption (r : State) (a : Addr) : (r.enterInterruption a).justInterrupted :=
  ⟨rfl, mode_enterInterruption a, rfl, rfl, rfl⟩

/-- MLX has no part in where the EXIT goes. -/
@[simp] theorem exitTargetMissing_afterMlx (s : State) (i j k : Field5) :
    (s.afterMlx i j k).exitTargetMissing = s.exitTargetMissing := rfl

theorem units_of_isExit (h : isExit i) : i.units = 1 := by
  obtain ⟨f, a, b, k, rfl | rfl⟩ := h <;> rfl

theorem units_term (op : Op) (f : Bool) (i j k : Field5) (h : BitVec 24) :
    (op.term f i j k h).units = opLen op := by cases op <;> rfl

theorem isExitOp_of_isExit_term {op : Op} {f : Bool} {i j k : Field5} {h : BitVec 24}
    (hi : isExit (op.term f i j k h)) : isExitOp op = true := by
  cases op with
  | exit | exitl => rfl
  | _ => simp [Op.term, isExit] at hi

/-! ### What is always kept -/

/-- The exit point writes neither X nor c nor S11[16:23]. -/
theorem ExitEffect.keeps (h : ExitEffect s t) :
    t.x = s.x ∧ t.c = s.c ∧ s11Rest t.s11 = s11Rest s.s11 := by
  cases h with
  | advance | taken | takenIvib => exact ⟨rfl, rfl, rfl⟩
  | call | svr | ir => exact ⟨rfl, rfl, s11Rest_s11Of ..⟩
  | missing hm r a hr => obtain rfl | rfl | ⟨-, -, rfl⟩ | ⟨-, rfl⟩ := hr <;> simp

/-- Only a SCAN that loads the processor writes c or S11[16:23]. -/
theorem Effect.keeps (h : Effect s i t) (hl : ¬ s.loadsMachine i) :
    t.c = s.c ∧ s11Rest t.s11 = s11Rest s.s11 := by
  cases h with
  | advance | branch | irBranch | svcBranch | skip | privileged => exact ⟨rfl, rfl⟩
  | ic | pause | pi | scanMissing => exact ⟨rfl, s11Rest_s11Of ..⟩
  | exit hi he => exact he.keeps.2
  | exitl f a b k hf he => exact he.keeps.2
  | scanLoad f a b k h block hload => exact absurd hload hl

/-! ### X -/

/-- PI and SVC write the register of their i-field; of the others only EXITL and a loading SCAN write X. -/
theorem Effect.writes_x (h : Effect s i t) (hl : ¬ s.loadsMachine i) :
    t.x = s.x ∨ (∃ f a b k, i = .exitl f a b k ∧ s.ignores f = false) ∨
      ∃ f a b k, (i = .pi f a b k ∨ i = .svc f a b k) ∧ s.ignores f = false ∧
        t.x = (s.writeX a (sext24 (literalJk b k))).x := by
  cases h with
  | advance | branch | irBranch | skip | privileged | ic | pause | scanMissing => exact .inl rfl
  | exit hi he => exact .inl he.keeps.1
  | exitl f a b k hf => exact .inr (.inl ⟨f, a, b, k, rfl, hf⟩)
  | pi f a b k hf => exact .inr (.inr ⟨f, a, b, k, .inl rfl, hf, rfl⟩)
  | svcBranch f a b k hf => exact .inr (.inr ⟨f, a, b, k, .inr rfl, hf, rfl⟩)
  | scanLoad f a b k h block hload => exact absurd hload hl

/-- Settles O38: c is kept by `Effect.keeps`, and X is written as `Effect.writes_x` says. -/
theorem registersWrittenOnlyAsListed : Obligations.RegistersWrittenOnlyAsListed := by
  intro i s t hx hl
  have he := exec_effect hx
  refine ⟨(he.keeps hl).1, ?_⟩
  obtain hkept | hexitl | ⟨f, a, b, k, hi, hf, hw⟩ := he.writes_x hl
  · exact .inl hkept
  · exact .inr (.inl hexitl)
  · exact .inr (.inr ⟨f, a, b, k, hi, hf, readX_of_x_eq_writeX hw⟩)

/-! ### The special registers and the location -/

/-- An instruction goes on in its program: S9 and S10 are kept, S11 too unless an SVC, SVR or IR has its
EXIT, and loc advances by LEN unless an outstanding branch has its EXIT. -/
structure Proceeds (s : State) (i : Instr) (t : State) : Prop where
  s9 : t.s9 = s.s9
  s10 : t.s10 = s.s10
  s11 : t.s11 = s.s11 ∨ (isExit i ∧
    (s.bstate = .outstanding .svc ∨ s.bstate = .outstanding .svr ∨ s.bstate = .outstanding .ir))
  loc : t.loc.toNat = s.loc.toNat + i.units ∨ (isExit i ∧ s.bstate ≠ .none)

/-- The three kept registers and a sequential advance make an instruction proceed. -/
theorem Proceeds.sequential {len : Nat} (hn : s.loc.toNat + len < 2 ^ 24) (hu : i.units = len)
    (h9 : t.s9 = s.s9) (h10 : t.s10 = s.s10) (h11 : t.s11 = s.s11) (hloc : t.loc = s.nextLoc len) :
    Proceeds s i t :=
  ⟨h9, h10, .inl h11, .inl (by rw [hloc, hu, toNat_nextLoc hn])⟩

/-- MLX writes nothing that `Proceeds` speaks of. -/
theorem Proceeds.of_afterMlx {a b k : Field5} (h : Proceeds (s.afterMlx a b k) i t) : Proceeds s i t :=
  ⟨h.s9, h.s10, h.s11, h.loc⟩

/-- The exit point enters an interruption for a missing target, or proceeds. -/
theorem ExitEffect.interrupted_or_proceeds (h : ExitEffect s t) (hi : isExit i) :
    (s.exitTargetMissing = true ∧ t.justInterrupted) ∨ Proceeds s i t := by
  cases h with
  | advance hb hn => exact .inr (.sequential hn (units_of_isExit hi) rfl rfl rfl rfl)
  | taken hb | takenIvib hb => exact .inr ⟨rfl, rfl, .inl rfl, .inr ⟨hi, by simp [hb]⟩⟩
  | call hb | svr hb | ir hb => exact .inr ⟨rfl, rfl, .inr ⟨hi, by simp [hb]⟩, .inr ⟨hi, by simp [hb]⟩⟩
  | missing hm r a => exact .inl ⟨hm, justInterrupted_enterInterruption ..⟩

/-- Every instruction enters an interruption, or proceeds, or is a SCAN that loads the processor. -/
theorem Effect.interrupted_or_proceeds (h : Effect s i t) (hl : ¬ s.loadsMachine i) :
    s.interruptedTo i t ∨ Proceeds s i t := by
  cases h with
  | advance hi hn | branch hi hn => exact .inr (.sequential hn rfl rfl rfl rfl rfl)
  | irBranch f a b k hn => exact .inr (.sequential hn rfl rfl rfl rfl rfl)
  | svcBranch f a b k hf hn => exact .inr (.sequential hn rfl rfl rfl rfl rfl)
  | skip c f a b k hf hn => exact .inr (.sequential hn (by cases c <;> rfl) rfl rfl rfl rfl)
  | privileged f a b k h hi hf hm hn => exact .inr (.sequential hn rfl rfl rfl rfl rfl)
  | exit hi he =>
    exact (he.interrupted_or_proceeds hi).imp_left fun ⟨hm, hj⟩ => ⟨.inr (.inr (.inr (.inl ⟨hi, hm⟩))), hj⟩
  | exitl f a b k hf he =>
    have hi : isExit (.exitl f a b k) := ⟨f, a, b, k, .inr rfl⟩
    exact (he.interrupted_or_proceeds hi).imp
      (fun ⟨hm, hj⟩ => ⟨.inr (.inr (.inr (.inl ⟨hi, exitTargetMissing_afterMlx s a b k ▸ hm⟩))), hj⟩)
      Proceeds.of_afterMlx
  | ic => exact .inl ⟨.inl rfl, justInterrupted_enterInterruption ..⟩
  | pause f a b k hf hc =>
    exact .inl ⟨.inr (.inl ⟨f, a, b, k, rfl, hf, hc⟩), justInterrupted_enterInterruption ..⟩
  | pi f a b k hf =>
    exact .inl ⟨.inr (.inr (.inl ⟨f, a, b, k, rfl, hf⟩)), justInterrupted_enterInterruption ..⟩
  | scanMissing f a b k h r hf hm hb =>
    exact .inl ⟨.inr (.inr (.inr (.inr ⟨f, a, b, k, h, rfl, hf, hm, hb⟩))), justInterrupted_enterInterruption ..⟩
  | scanLoad f a b k h block hload => exact absurd hload hl

/-- Settles O39: S11[16:23] by `Effect.keeps`, the rest because the instruction is interrupted or proceeds. -/
theorem specialRegistersWrittenOnlyAsListed : Obligations.SpecialRegistersWrittenOnlyAsListed := by
  intro i s t hx hl
  have he := exec_effect hx
  exact ⟨(he.keeps hl).2, (he.interrupted_or_proceeds hl).imp_right fun hp => ⟨hp.s9, hp.s10, hp.s11⟩⟩

/-- Settles O41: an instruction that proceeds advances by LEN, since no outstanding branch has its EXIT. -/
theorem sequentialAdvance : Obligations.SequentialAdvance := by
  intro op f i j k h s t hx hnoBranch hl
  obtain hint | hp := (exec_effect hx).interrupted_or_proceeds hl
  · exact .inr hint
  · obtain hloc | ⟨hi, hb⟩ := hp.loc
    · exact .inl (by rw [hloc, units_term])
    · exact absurd ⟨isExitOp_of_isExit_term hi, hb⟩ hnoBranch

end Sys2Proof.Machine
end

section
/-! PROOFS of the family 20_memory: what MemRead and MemWrite do to storage, that no instruction writes
storage, and that instruction buffers which agree with storage cannot be observed and go on agreeing. -/

namespace Sys2Proof.Machine

variable {s t : State} {i : Instr} {m m' : Memory}

/-! ### Reading a block -/

theorem Memory.readUnits_succ_eq_some {l n : Nat} {us : List Unit24} :
    m.readUnits l (n + 1) = some us ↔
      ∃ u vs, m.read l = some u ∧ m.readUnits (l + 1) n = some vs ∧ us = u :: vs := by
  rw [Memory.readUnits]
  cases m.read l <;> cases m.readUnits (l + 1) n <;> simp [eq_comm]

theorem Memory.readUnits_succ_eq_none {l n : Nat} :
    m.readUnits l (n + 1) = none ↔ m.read l = none ∨ m.readUnits (l + 1) n = none := by
  rw [Memory.readUnits]
  cases m.read l <;> cases m.readUnits (l + 1) n <;> simp

/-- A block is read as the list of its units, in order. -/
theorem Memory.readUnits_eq_some_iff {l n : Nat} {us : List Unit24} :
    m.readUnits l n = some us ↔ us.length = n ∧ ∀ p, p < n → m.read (l + p) = us[p]? := by
  induction n generalizing l us with
  | zero => cases us <;> simp [Memory.readUnits]
  | succ n ih =>
    rw [Memory.readUnits_succ_eq_some, Nat.forall_lt_succ_left]
    cases us with
    | nil => simp
    | cons u us => simp [ih, Nat.add_assoc, Nat.add_comm 1, and_left_comm]

/-- A block cannot be read exactly when one of its units is missing. -/
theorem Memory.readUnits_eq_none_iff {l n : Nat} :
    m.readUnits l n = none ↔ ∃ p, p < n ∧ m.read (l + p) = none := by
  induction n generalizing l with
  | zero => simp [Memory.readUnits]
  | succ n ih =>
    rw [Memory.readUnits_succ_eq_none, Nat.exists_lt_succ_left]
    simp [ih, Nat.add_assoc, Nat.add_comm 1]

theorem Memory.memRead_of_le {key : Key} {a : Addr} {n : Nat} (h : a.toNat + n ≤ 2 ^ 24) :
    m.memRead key a n = m.readUnits (location key a) n := if_pos h

theorem Memory.memRead_of_gt {key : Key} {a : Addr} {n : Nat} (h : 2 ^ 24 < a.toNat + n) :
    m.memRead key a n = none := if_neg (by omega)

/-- Settles O53: MemRead within storage reads a block, and a block is its units in order. -/
theorem memReadIsConsecutiveUnits : Obligations.MemReadIsConsecutiveUnits := by
  intro m key a n
  refine ⟨fun hin => ?_, Memory.memRead_of_gt⟩
  rw [Memory.memRead_of_le hin]
  exact ⟨fun us => Memory.readUnits_eq_some_iff, Memory.readUnits_eq_none_iff⟩

/-! ### Writing a block -/

theorem Memory.read_putUnits_above {l n : Nat} {us : List Unit24} (h : l + us.length ≤ n) :
    (m.putUnits l us).read n = m.read n := by
  induction us generalizing m l with
  | nil => rfl
  | cons u us ih =>
    rw [List.length_cons] at h
    rw [Memory.putUnits, ih (by omega), Memory.read_put_other _ _ (by omega)]

/-- The block put is the block read: putting the later units leaves the first as it was put. -/
theorem Memory.readUnits_putUnits (m : Memory) (l : Nat) (us : List Unit24) :
    (m.putUnits l us).readUnits l us.length = some us := by
  induction us generalizing m l with
  | nil => rfl
  | cons u us ih =>
    have hfirst : ((m.put l u).putUnits (l + 1) us).read l = some u := by
      rw [Memory.read_putUnits_below _ _ (Nat.lt_succ_self l), Memory.read_put_same]
    exact Memory.readUnits_succ_eq_some.mpr ⟨u, us, hfirst, ih (m.put l u) (l + 1), rfl⟩

theorem Memory.le_of_isSome_memRead {key : Key} {a : Addr} {n : Nat} (h : (m.memRead key a n).isSome = true) :
    a.toNat + n ≤ 2 ^ 24 := by
  by_contra hgt
  rw [Memory.memRead_of_gt (by omega)] at h
  cases h

/-- MemWrite is defined where MemRead is, and puts its units. -/
theorem Memory.memWrite_eq_some {key : Key} {a : Addr} {us : List Unit24} :
    m.memWrite key a us = some m' ↔
      (m.memRead key a us.length).isSome = true ∧ m' = m.putUnits (location key a) us := by
  unfold Memory.memWrite
  cases m.memRead key a us.length <;> simp [eq_comm]

/-- Settles O54: MemWrite puts a block, which is then read, and leaves what lies below and above it. -/
theorem memWriteThenMemRead : Obligations.MemWriteThenMemRead := by
  intro m m' key a us hw
  obtain ⟨hdefined, rfl⟩ := Memory.memWrite_eq_some.mp hw
  refine ⟨?_, fun n hn => ?_⟩
  · rw [Memory.memRead_of_le (Memory.le_of_isSome_memRead hdefined), Memory.readUnits_putUnits]
  · obtain hbelow | habove := hn
    · exact Memory.read_putUnits_below m us hbelow
    · exact Memory.read_putUnits_above habove

/-! ### Storage and the parameters are never written -/

theorem ExitEffect.keeps_storage (h : ExitEffect s t) : t.memory = s.memory ∧ t.inst = s.inst := by
  cases h with
  | advance | taken | takenIvib | call | svr | ir => exact ⟨rfl, rfl⟩
  | missing hm r a hr => obtain rfl | rfl | ⟨-, -, rfl⟩ | ⟨-, rfl⟩ := hr <;> exact ⟨rfl, rfl⟩

/-- Not even a SCAN that loads the processor writes storage or a parameter. -/
theorem Effect.keeps_storage (h : Effect s i t) : t.memory = s.memory ∧ t.inst = s.inst := by
  cases h with
  | exit hi he => exact he.keeps_storage
  | exitl f a b k hf he => exact he.keeps_storage
  | advance | branch | irBranch | svcBranch | skip | privileged | ic | pause | pi | scanMissing | scanLoad =>
    exact ⟨rfl, rfl⟩

/-- Settles O37: storage and the parameters are kept by `Effect.keeps_storage`, so every unit reads as before. -/
theorem storageIsNeverWritten : Obligations.StorageIsNeverWritten := by
  intro i s t hx
  obtain ⟨hmem, hinst⟩ := (exec_effect hx).keeps_storage
  exact ⟨hmem, hinst, fun key a => by rw [hmem]⟩

/-! ### Fetching from buffers that agree with storage -/

theorem mem_buffered {key : Key} {a : Addr} {u : Unit24} :
    u ∈ s.buffered key a ↔ ∃ b ∈ s.ib, b.key = key ∧ b.addr = a ∧ b.unit = u := by
  simp [State.buffered, and_assoc]

/-- A unit comes from storage, or is what a coherent buffer holds, which is what storage holds. -/
theorem State.Coherent.fetchUnit_eq_read (h : s.Coherent) (pick : Option Nat) (key : Key) (a : Addr) :
    s.fetchUnit pick key a = s.memory.read (location key a) := by
  cases pick with
  | none => rfl
  | some n =>
    rw [State.fetchUnit]
    cases hget : (s.buffered key a)[n]? with
    | none => rfl
    | some u =>
      obtain ⟨b, hb, rfl, rfl, rfl⟩ := mem_buffered.mp (List.mem_of_getElem? hget)
      exact (h b hb).symm

/-- Settles O49: both units are fetched as storage holds them, whatever the moment picks. -/
theorem coherentBuffersAreUnobservable : Obligations.CoherentBuffersAreUnobservable := by
  intro s m h
  simp only [State.fetch, h.fetchUnit_eq_read]

/-! ### Buffers go on agreeing with storage -/

/-- One step takes the interruption, or runs the instruction fetched. -/
theorem step_next :
    step s = .next t ↔
      (s.takesIc = true ∧ exec .ic s.begin = .next t) ∨
      (s.takesIc = false ∧ ∃ i, s.begin.fetch s.moment = .ok i ∧
        exec i (s.begin.prefetch s.moment) = .next t) := by
  unfold step
  cases s.takesIc
  · cases s.begin.fetch s.moment <;> simp
  · simp

/-- Prefetching adds units as storage holds them. -/
theorem State.Coherent.prefetch (h : s.Coherent) (mo : Moment) : (s.prefetch mo).Coherent := by
  intro b hb
  obtain hold | hnew := List.mem_append.mp hb
  · exact h b hold
  · obtain ⟨r, -, hr⟩ := List.mem_filterMap.mp hnew
    obtain ⟨u, hu, rfl⟩ := Option.map_eq_some_iff.mp hr
    exact hu

theorem ExitEffect.ib_kept_or_emptied (h : ExitEffect s t) : t.ib = s.ib ∨ t.ib = [] := by
  cases h with
  | advance | taken | call | svr | ir => exact .inl rfl
  | takenIvib => exact .inr rfl
  | missing hm r a hr =>
    obtain rfl | rfl | ⟨-, -, rfl⟩ | ⟨-, rfl⟩ := hr
    · exact .inl rfl
    · exact .inr rfl
    · exact .inl rfl
    · exact .inl rfl

/-- Only the EXIT of an IVIB and a SCAN that loads the processor touch the buffers. -/
theorem Effect.ib_kept_or_emptied (h : Effect s i t) (hl : ¬ s.loadsMachine i) : t.ib = s.ib ∨ t.ib = [] := by
  cases h with
  | exit hi he => exact he.ib_kept_or_emptied
  | exitl f a b k hf he => exact he.ib_kept_or_emptied
  | advance | branch | irBranch | svcBranch | skip | privileged | ic | pause | pi | scanMissing => exact .inl rfl
  | scanLoad f a b k h block hload => exact absurd hload hl

theorem not_loadsMachine_of_ne_scan (h : ∀ f a b k h, i ≠ .scan f a b k h) : ¬ s.loadsMachine i :=
  fun ⟨f, a, b, k, d, hi, _⟩ => h f a b k d hi

/-- An instruction that loads no processor keeps the buffers in agreement with storage. -/
theorem State.Coherent.exec_next (h : s.Coherent) (hx : exec i s = .next t) (hl : ¬ s.loadsMachine i) :
    t.Coherent := by
  have he := exec_effect hx
  intro b hb
  rw [he.keeps_storage.1]
  obtain hkept | hempty := he.ib_kept_or_emptied hl
  · exact h b (hkept ▸ hb)
  · rw [hempty] at hb
    cases hb

/-- Settles O51: the moment prefetches what storage holds, and what then runs loads no processor. -/
theorem coherenceKeptByEveryStep : Obligations.CoherenceKeptByEveryStep := by
  intro s s' h hstep hscan
  have hbegin : s.begin.Coherent := h
  obtain ⟨-, hx⟩ | ⟨hic, i, hfetch, hx⟩ := step_next.mp hstep
  · exact hbegin.exec_next hx (not_loadsMachine_of_ne_scan (by simp))
  · refine (hbegin.prefetch s.moment).exec_next hx (not_loadsMachine_of_ne_scan ?_)
    rintro f a b k d rfl
    exact hscan hic f a b k d hfetch

end Sys2Proof.Machine
end

section
/-! PROOFS of the family 30_encoding: decoding and encoding undo each other, the encoding formula, and the
literal jk. Each rests on the first unit being the concatenation of its fields. -/

namespace Sys2Proof.Machine

/-! ### Values of concatenations and sign extensions -/

/-- Appending on the right multiplies by a power of two. -/
theorem toNat_append_eq_add {m n : Nat} (x : BitVec m) (y : BitVec n) :
    (x ++ y).toNat = x.toNat * 2 ^ n + y.toNat := by
  rw [BitVec.toNat_append, ← Nat.shiftLeft_add_eq_or_of_lt y.isLt, Nat.shiftLeft_eq]

theorem toNat_literalJk (j k : Field5) : (literalJk j k).toNat = 32 * j.toNat + k.toNat := by
  rw [literalJk, toNat_append_eq_add]
  omega

/-- The sign extension adds 14 high-order ones exactly from 2^9 on. -/
theorem toNat_sext24 (v : BitVec 10) :
    (sext24 v).toNat = v.toNat + if 2 ^ 9 ≤ v.toNat then 2 ^ 24 - 2 ^ 10 else 0 := by
  simp only [sext24, BitVec.toNat_signExtend, BitVec.toNat_setWidth_of_le (show 10 ≤ 24 by decide),
    BitVec.msb_eq_decide, decide_eq_true_eq]

/-- U0 as a number (30_encoding.md R72). -/
theorem toNat_firstUnit (t : Opc) (op : Op) (s : Bool) (i j k : Field5) :
    (firstUnit t op s i j k).toNat =
      s.toNat * 2 ^ 23 + (t.code op).toNat * 2 ^ 15 + i.toNat * 2 ^ 10 + j.toNat * 2 ^ 5 + k.toNat := by
  simp only [firstUnit, toNat_append_eq_add, BitVec.toNat_ofBool]
  omega

/-! ### The first unit is its fields -/

/-- Two adjacent fields of a unit are one. -/
theorem unitBits_append_unitBits (u : Unit24) {a b m n : Nat} (hb : b = a + m) (hle : b + n ≤ 24) :
    unitBits u a m ++ unitBits u b n = unitBits u a (m + n) := by
  unfold unitBits
  rw [BitVec.extractLsb'_append_extractLsb'_eq_extractLsb' (by omega)]
  congr 1
  omega

/-- The skip flag as a field (30_encoding.md R56). -/
theorem ofBool_skipFlag (u : Unit24) : BitVec.ofBool (u.getMsbD 0) = unitBits u 0 1 := by
  ext n hn
  obtain rfl : n = 0 := by omega
  simp [unitBits, BitVec.getMsbD]

/-- A unit whose operation field is the mnemonic's code is made of its fields, used or not (R55, R64). -/
theorem firstUnit_fields {t : Opc} {op : Op} {u : Unit24} (h : t.code op = operationField u) :
    firstUnit t op (u.getMsbD 0) (unitBits u 9 5) (unitBits u 14 5) (unitBits u 19 5) = u := by
  rw [firstUnit, h, ofBool_skipFlag, operationField]
  iterate 4 rw [unitBits_append_unitBits u (by omega) (by omega)]
  exact BitVec.extractLsb'_eq_self

/-! ### Terms -/

theorem wellFormed_term (op : Op) (s : Bool) (i j k : Field5) (h : BitVec 24) :
    (op.term s i j k h).wellFormed = true := by cases op <;> rfl

/-- A term is encoded in the format of its mnemonic. -/
theorem encode_term (t : Opc) (op : Op) (s : Bool) (i j k : Field5) (h : BitVec 24) :
    encode t (op.term s i j k h) = if op.isLong then longForm t op s i j k h else shortForm t op s i j k := by
  cases op <;> rfl

/-- What decodes is the units of a mnemonic's format, the first of them with its code, before the rest. -/
theorem decode_eq_ok {t : Opc} {us rest : List Unit24} {i : Instr} (hd : decode t us = .ok (i, rest)) :
    ∃ op u0 h, t.code op = operationField u0 ∧ i = termOf op u0 h ∧
      us = (if op.isLong then [u0, h] else [u0]) ++ rest := by
  cases us with
  | nil => cases hd
  | cons u0 us =>
    rw [decode] at hd
    cases hop : t.opOf (operationField u0) with
    | none => simp [hop] at hd
    | some op =>
      have hcode := Opc.code_of_opOf hop
      cases hlong : op.isLong with
      | false =>
        obtain ⟨rfl, rfl⟩ : termOf op u0 0 = i ∧ us = rest := by simpa [hop, hlong] using hd
        exact ⟨op, u0, 0, hcode, rfl, by simp [hlong]⟩
      | true =>
        cases us with
        | nil => simp [hop, hlong] at hd
        | cons u1 us =>
          obtain ⟨rfl, rfl⟩ : termOf op u0 u1 = i ∧ us = rest := by simpa [hop, hlong] using hd
          exact ⟨op, u0, u1, hcode, rfl, by simp [hlong]⟩

/-! ### The obligations -/

/-- Settles O1: each instruction is encoded in its format, which decodes to it. -/
theorem decodeOfEncodeIsIdentity : Obligations.DecodeOfEncodeIsIdentity := by
  intro t ins rest ht hw
  cases ins with
  | band s i j k h | btaf s i j k h | bfaf s i j k h | bor s i j k h | btof s i j k h | bfof s i j k h
  | beq s i j k h | bxor s i j k h | ivib s i j k h | svr s i j k h | scan s i j k h =>
    exact decode_longForm ht rfl s i j k h rest
  | bu s i j k | exit s i j k | exitl s i j k | skand s i j k | sktaf s i j k | skfaf s i j k
  | skor s i j k | sktof s i j k | skfof s i j k | skeq s i j k | skxor s i j k | pause s i j k
  | pi s i j k | svc s i j k | ir s i j k =>
    exact decode_shortForm ht rfl s i j k rest
  | ic => cases hw

/-- Settles O2: what decodes is a term of fields that make up its first unit. -/
theorem encodeOfDecodeIsIdentity : Obligations.EncodeOfDecodeIsIdentity := by
  intro t us i rest hd
  obtain ⟨op, u0, h, hcode, rfl, rfl⟩ := decode_eq_ok hd
  refine ⟨wellFormed_term .., ?_⟩
  rw [termOf, encode_term, longForm, shortForm, firstUnit_fields hcode]

/-- Settles O3: the formula is the value of the first unit; a literal is the value of its two digits in base 32. -/
theorem encodingFormula : Obligations.EncodingFormula := by
  refine ⟨fun t op s i j k h => ⟨firstUnit t op s i j k, encode_term t op s i j k h, toNat_firstUnit ..⟩, ?_⟩
  intro n hn
  rw [toNat_literalJk, BitVec.toNat_ofNat, BitVec.toNat_ofNat]
  omega

/-- Settles O5: the values of j ++ k and of its sign extension, and two adjacent fields of a unit as one. -/
theorem literalIsSignExtended : Obligations.LiteralIsSignExtended := by
  refine ⟨fun j k => ⟨toNat_literalJk j k, fun hlow => ?_, fun hhigh => ?_⟩,
    fun u => unitBits_append_unitBits u rfl (by omega)⟩
  · rw [toNat_sext24, if_neg (by omega), Nat.add_zero]
  · rw [toNat_sext24, if_pos hhigh, Nat.add_comm]

end Sys2Proof.Machine
end

section
/-! PROOFS of the family 40_branch_at_exit: the condition functions, the step of every branch, and the
suppression of the branches that follow an outstanding one. -/

namespace Sys2Proof.Machine

variable {s : State}

/-! ### Conditions -/

/-- The condition that a function puts on two bits of c, as a proposition (40_branch_at_exit.md R79 to R86). -/
def CondFn.Holds : CondFn → Prop → Prop → Prop
  | .and, p, q => p ∧ q
  | .taf, p, q => p ∧ ¬ q
  | .faf, p, q => ¬ p ∧ ¬ q
  | .or, p, q => p ∨ q
  | .tof, p, q => p ∨ ¬ q
  | .fof, p, q => ¬ p ∨ ¬ q
  | .eq, p, q => p ↔ q
  | .xor, p, q => ¬ (p ↔ q)

theorem CondFn.eval_eq_true_iff (f : CondFn) (a b : Bool) :
    f.eval a b = true ↔ f.Holds (a = true) (b = true) := by
  cases f <;> simp [CondFn.eval, CondFn.Holds]

theorem cbit_of_le (c : Word24) {n : Field5} (h : n.toNat ≤ 23) : cbit c n = c.getMsbD n.toNat := if_pos h

theorem cbit_of_ge (c : Word24) {n : Field5} (h : 24 ≤ n.toNat) : cbit c n = false := if_neg (by omega)

/-- Settles O6: the truth tables of the definition, and the two ranges of `cbit`. -/
theorem conditionFunctionsAndBits : Obligations.ConditionFunctionsAndBits := by
  refine ⟨fun a b => ⟨rfl, rfl, rfl, rfl, rfl, rfl, ?_, ?_⟩, fun c n => ⟨cbit_of_le c, cbit_of_ge c⟩⟩
  · exact Bool.beq_eq_decide_eq a b
  · rw [CondFn.eval, bne, Bool.beq_eq_decide_eq, decide_not]

/-! ### The step of a branch -/

theorem advance_below {len : Nat} (hn : s.loc.toNat + len < 2 ^ 24) :
    advance len s = .next { s with loc := s.nextLoc len } := advance_of_hasNext (hasNext_iff.mpr hn)

theorem unlessSkipped_eq_ite {flag : Bool} {len : Nat} {body : State → Result} :
    unlessSkipped flag len s body =
      if s.skip = .skipping ∧ flag = true then advance len s else body s := by
  simp [unlessSkipped, State.ignores]

/-- Below the top of storage a branch that is skipped, suppressed or unsuccessful only advances, and any other
becomes the outstanding one (R76, R87). -/
theorem unlessSkipped_branchAtExit {flag : Bool} {len : Nat} {success : State → Bool} {eba : State → Addr}
    (hn : s.loc.toNat + len < 2 ^ 24) :
    unlessSkipped flag len s (fun s => branchAtExit (success s) (eba s) len s) = .next
      (if s.skip = .skipping ∧ flag = true then { s with loc := s.nextLoc len }
       else if s.bstate = .none ∧ success s = true then
         { s.makeOutstanding .br (eba s) none with loc := s.nextLoc len }
       else { s with loc := s.nextLoc len }) := by
  rw [unlessSkipped_eq_ite, branchAtExit]
  split_ifs
  · exact advance_below hn
  · exact advance_below (s := s.makeOutstanding .br (eba s) none) hn
  · exact advance_below hn

theorem exec_branchOf (f : CondFn) (flag : Bool) (i j k : Field5) (h : BitVec 24) (s : State) :
    exec (branchOf f flag i j k h) s = conditionalBranch f flag i j k h s := by cases f <;> rfl

/-- Settles O7: a conditional branch is a branch of length 2 with the value of its function as success. -/
theorem conditionalBranchStep : Obligations.ConditionalBranchStep := by
  intro f flag i j k h s hn
  rw [exec_branchOf]
  exact unlessSkipped_branchAtExit hn

/-- Settles O9: BU is a branch of length 1 that is always successful. -/
theorem unconditionalBranchStep : Obligations.UnconditionalBranchStep := by
  intro flag i j k s hn
  have hstep := unlessSkipped_branchAtExit (flag := flag) (success := fun _ => true)
    (eba := fun s => s.ebaShort k) hn
  simp only [and_true] at hstep
  exact hstep

/-! ### When a conditional branch is successful -/

/-- Unskipped and with none outstanding, a conditional branch becomes the outstanding one exactly when the
condition of its function holds. -/
theorem branchOf_outstanding_iff (f : CondFn) (flag : Bool) (i j k : Field5) (h : BitVec 24)
    (hn : s.loc.toNat + 2 < 2 ^ 24) (hb : s.bstate = .none) (hskip : ¬ (s.skip = .skipping ∧ flag = true)) :
    ∃ t, exec (branchOf f flag i j k h) s = .next t ∧
      (t.bstate = .outstanding .br ↔ f.Holds (cbit s.c i = true) (cbit s.c j = true)) ∧
      (f.Holds (cbit s.c i = true) (cbit s.c j = true) → t.ieba = s.readX k + h) := by
  refine ⟨_, conditionalBranchStep f flag i j k h s hn, ?_⟩
  rw [if_neg hskip, ← f.eval_eq_true_iff]
  by_cases hf : f.eval (cbit s.c i) (cbit s.c j) = true
  · rw [if_pos ⟨hb, hf⟩]
    exact ⟨iff_of_true rfl hf, fun _ => rfl⟩
  · rw [if_neg fun hboth => hf hboth.2]
    exact ⟨iff_of_false (by simp [hb]) hf, fun htrue => absurd htrue hf⟩

/-- Settles O8: `branchOf_outstanding_iff` for each of the eight functions. -/
theorem branchSuccessConditions : Obligations.BranchSuccessConditions := by
  intro flag i j k h s hn hb hskip
  have hiff (f : CondFn) := branchOf_outstanding_iff f flag i j k h hn hb hskip
  exact ⟨hiff .and, hiff .taf, hiff .faf, hiff .or, hiff .tof, hiff .fof, hiff .eq, hiff .xor⟩

/-! ### Suppression by an outstanding branch (R88) -/

section Suppression

variable {flag : Bool} {len : Nat}

/-- Where the body of an instruction only advances, its skip flag makes no difference. -/
theorem unlessSkipped_of_advance {body : State → Result} (h : body s = advance len s) :
    unlessSkipped flag len s body = advance len s := by rw [unlessSkipped, h, ite_self]

variable (hb : s.bstate ≠ .none)
include hb

theorem branchAtExit_of_outstanding (success : Bool) (eba : Addr) :
    branchAtExit success eba len s = advance len s := if_neg fun h => hb h.1

theorem conditionalBranch_of_outstanding (f : CondFn) (i j k : Field5) (h : BitVec 24) :
    conditionalBranch f flag i j k h s = advance 2 s :=
  unlessSkipped_of_advance (branchAtExit_of_outstanding hb _ _)

theorem execBu_of_outstanding (k : Field5) : execBu flag k s = advance 1 s :=
  unlessSkipped_of_advance (branchAtExit_of_outstanding hb _ _)

theorem execIvib_of_outstanding (k : Field5) (h : BitVec 24) : execIvib flag k h s = advance 2 s :=
  unlessSkipped_of_advance (if_neg hb)

theorem execSvc_of_outstanding (i j k : Field5) : execSvc flag i j k s = advance 1 s :=
  unlessSkipped_of_advance (if_neg hb)

theorem execSvr_of_outstanding (hm : s.mode.sup = .supervisory) (k : Field5) (h : BitVec 24) :
    execSvr flag k h s = advance 2 s :=
  unlessSkipped_of_advance (by simp [hm, hb])

theorem execIr_of_outstanding (hm : s.mode.sup = .supervisory) : execIr flag s = advance 1 s :=
  unlessSkipped_of_advance (by simp [hm, hb])

end Suppression

/-- Settles O10: each instruction named only advances while a branch is outstanding. -/
theorem outstandingBranchGoverns : Obligations.OutstandingBranchGoverns := by
  intro op flag i j k h s hop hb hn
  suffices hadv : exec (op.term flag i j k h) s = advance (opLen op) s from hadv.trans (advance_below hn)
  obtain hop | ⟨hop, hm⟩ := hop
  · cases op with
    | band | btaf | bfaf | bor | btof | bfof | beq | bxor => exact conditionalBranch_of_outstanding hb _ i j k h
    | bu => exact execBu_of_outstanding hb k
    | ivib => exact execIvib_of_outstanding hb k h
    | svc => exact execSvc_of_outstanding hb i j k
    | _ => simp at hop
  · cases op with
    | svr => exact execSvr_of_outstanding hb hm k h
    | ir => exact execIr_of_outstanding hb hm
    | _ => simp at hop

end Sys2Proof.Machine
end

section
/-! PROOFS of the family 41_exit: the EXIT that goes on or takes its branch, and the EXIT whose target is
missing. The four kinds of branch with a target of their own differ only in what is done before the transfer;
`State.atTransfer` is that state, and what a missing target leads to is said once, of the transfer. -/

namespace Sys2Proof.Machine

variable {s : State}

/-- Settles O15: with none outstanding the exit point is a sequential advance, and with an ordinary branch
outstanding it is a transfer to the internal eba. -/
theorem exitTakesTheBranch : Obligations.ExitTakesTheBranch := by
  intro flag i j k s
  refine ⟨fun hb hn => ?_, fun hb hp => ?_⟩
  · exact (exitPoint_none hb).trans (advance_below hn)
  · exact (exitPoint_br hb).trans (transfer_of_present hp)

/-! ### A transfer whose target is missing -/

section Transfer

variable {key : Key} {a : Addr} (hp : s.isPresent key a = false)
include hp

/-- Enabled, and with location 0 present, a missing target sets MI and is interrupted (41_exit.md R94). -/
theorem transfer_missing_enabled (hm : s.mode.dis = .enabled)
    (h0 : s.isPresent (s.normalKey .supervisory) interruptionLocation = true) :
    transfer key a s = .next (s.raiseMi.enterInterruption (Config.freeS9 s.tick)) :=
  transfer_next.mpr (.inr ⟨hp, hm, interrupt_next.mpr ⟨h0, rfl⟩⟩)

/-- Disabled, a missing target sets MI and stops the run (R94). -/
theorem transfer_missing_disabled (hm : s.mode.dis = .disabled) :
    transfer key a s = .fault (.missingTarget s.loc s.raiseMi) := by
  simp [transfer, hp, hm]

end Transfer

/-! ### The state from which an EXIT transfers control -/

/-- The state in which the outstanding branch is taken, its pending actions done and the branch used up
(R92, 43_special_branch.md R119, R129, R137). The register that R131 watches from then on, `r`, is the model's
own. -/
def State.atTransfer (s : State) (r : Option Field5) : State :=
  { s with
    s11 := s11Of s.modeAtExit (s11Bsm s.s11) (s11IcMode s.s11) (s11SvcMode s.s11) (s11Rest s.s11)
    bstate := s.bsmAtExit.branch
    skip := s.bsmAtExit.skip
    carry := s.bsmAtExit.carry
    ieba := s.iebaAtExit
    ib := s.ibAtExit
    ebaReg := r }

@[simp] theorem atTransfer_s11 (r : Option Field5) : (s.atTransfer r).s11 =
    s11Of s.modeAtExit (s11Bsm s.s11) (s11IcMode s.s11) (s11SvcMode s.s11) (s11Rest s.s11) := rfl

@[simp] theorem mode_atTransfer (r : Option Field5) :
    (s.atTransfer r).mode = decodeMode s.inst.modeEnc s.modeAtExit :=
  congrArg _ (s11Mode_s11Of ..)

@[simp] theorem atTransfer_inst (r : Option Field5) : (s.atTransfer r).inst = s.inst := rfl

@[simp] theorem bsm_atTransfer (r : Option Field5) : (s.atTransfer r).bsm = s.bsmAtExit := rfl

@[simp] theorem bsm_raiseMi (s : State) : s.raiseMi.bsm = s.bsm := rfl

theorem afterSvr_eq_atTransfer (hb : s.bstate = .outstanding .svr) : s.afterSvr = s.atTransfer none := by
  simp [State.afterSvr, State.restoreFrom, State.atTransfer, State.modeAtExit, State.bsmAtExit,
    State.iebaAtExit, State.ibAtExit, hb]

theorem afterIr_eq_atTransfer (hb : s.bstate = .outstanding .ir) :
    s.afterIr = s.atTransfer s.afterIr.ebaReg := by
  simp [State.afterIr, State.restoreFrom, State.atTransfer, State.modeAtExit, State.bsmAtExit,
    State.iebaAtExit, State.ibAtExit, hb]

/-! ### The exit point of each kind as a transfer -/

theorem exitPoint_br_eq_transfer (hb : s.bstate = .outstanding .br) :
    exitPoint s = transfer (s.normalKey s.mode.sup) s.ieba (s.atTransfer none) := by
  rw [exitPoint_br hb, exitBranch]
  simp [State.atTransfer, State.modeAtExit, State.bsmAtExit, State.iebaAtExit, State.ibAtExit, hb, s11Of_fields]

theorem exitPoint_ivib_eq_transfer (hb : s.bstate = .outstanding .ivib) :
    exitPoint s = transfer (s.normalKey s.mode.sup) s.ieba (s.atTransfer none) := by
  rw [exitPoint_ivib hb, exitIvib]
  simp [State.atTransfer, State.modeAtExit, State.bsmAtExit, State.iebaAtExit, State.ibAtExit, hb, s11Of_fields]

theorem exitPoint_svr_eq_transfer (hb : s.bstate = .outstanding .svr) (hnone : s.bsmAtExit.branch = .none) :
    exitPoint s = transfer (s.normalKey (decodeMode s.inst.modeEnc (s11SvcMode s.s11)).sup) s.ieba
      (s.atTransfer none) := by
  have hreturns : s.afterSvr.bstate = .none := by rw [afterSvr_eq_atTransfer hb]; exact hnone
  rw [exitPoint_svr hb, exitSvr, if_pos hreturns, mode_afterSvr, afterSvr_eq_atTransfer hb]
  rfl

/-- R131 stops the return only where an IVIB or SVR becomes outstanding again. -/
theorem irWritten_eq_none (hb : s.bstate = .outstanding .ir)
    (hir : watchedBranch s.bsmAtExit.branch = true → s.savedEbaWritten = none) : s.irWritten = none := by
  rw [State.bsmAtExit, hb] at hir
  rw [State.irWritten]
  split_ifs with hw
  · exact hir hw
  · rfl

theorem exitPoint_ir_eq_transfer (hb : s.bstate = .outstanding .ir)
    (hir : watchedBranch s.bsmAtExit.branch = true → s.savedEbaWritten = none) :
    exitPoint s = transfer (s.normalKey (decodeMode s.inst.modeEnc (s11IcMode s.s11)).sup) s.s9
      (s.atTransfer s.afterIr.ebaReg) := by
  rw [exitPoint_ir hb, exitIr_of_unwritten (irWritten_eq_none hb hir), mode_afterIr, ← afterIr_eq_atTransfer hb]
  rfl

/-- An EXIT whose target is missing is a transfer from `State.atTransfer`, whichever the kind of its branch. -/
theorem exitPoint_of_exitTargetMissing (hmiss : s.exitTargetMissing = true)
    (hsvr : s.bstate = .outstanding .svr → s.bsmAtExit.branch = .none)
    (hir : s.bstate = .outstanding .ir → watchedBranch s.bsmAtExit.branch = true → s.savedEbaWritten = none) :
    ∃ key a r, s.isPresent key a = false ∧ exitPoint s = transfer key a (s.atTransfer r) := by
  cases hb : s.bstate with
  | none => simp [State.exitTargetMissing, hb] at hmiss
  | outstanding kind =>
    rw [State.exitTargetMissing, hb] at hmiss
    cases kind with
    | br => exact ⟨_, _, _, Bool.eq_false_of_not_eq_true' hmiss, exitPoint_br_eq_transfer hb⟩
    | ivib => exact ⟨_, _, _, Bool.eq_false_of_not_eq_true' hmiss, exitPoint_ivib_eq_transfer hb⟩
    | svc => cases hmiss
    | svr => exact ⟨_, _, _, Bool.eq_false_of_not_eq_true' hmiss, exitPoint_svr_eq_transfer hb (hsvr hb)⟩
    | ir => exact ⟨_, _, _, Bool.eq_false_of_not_eq_true' hmiss, exitPoint_ir_eq_transfer hb (hir hb)⟩

/-- Settles O16: the EXIT is a transfer from `State.atTransfer` whose target is missing, and every clause is
read off the state that such a transfer leaves. -/
theorem missingTargetInterruptsOrStops : Obligations.MissingTargetInterruptsOrStops := by
  intro flag i j k s hmiss hsvr hir
  obtain ⟨key, a, r, hp, hx⟩ := exitPoint_of_exitTargetMissing hmiss hsvr hir
  refine ⟨fun hm h0 => ?_, fun hm => ?_⟩
  · refine ⟨_, hx.trans (transfer_missing_enabled hp ((mode_atTransfer r).symm ▸ hm) h0), ?_⟩
    refine ⟨mode_enterInterruption _, ?_, ?_, ?_, ?_, fun hb => if_neg hb, rfl⟩ <;> simp
  · refine ⟨_, hx.trans (transfer_missing_disabled hp ((mode_atTransfer r).symm ▸ hm)), ?_⟩
    refine ⟨?_, ?_, ?_, ?_, ?_, rfl⟩ <;> simp

end Sys2Proof.Machine
end

section
/-! PROOFS of the family 42_skip: the rule of the skip flag, the step of every skip, and what alters the skip
state. That an instruction other than EXIT and EXITL looks at its flag only through `unlessSkipped` is said
once, in `exec_term_eq_unlessSkipped`. -/

namespace Sys2Proof.Machine

variable {s t : State}

/-! ### The skip flag (42_skip.md R101, R102) -/

theorem ignores_true_of_skipping (hskip : s.skip = .skipping) : s.ignores true = true := by
  simp [State.ignores, hskip]

theorem ignores_of_notSkipping (hskip : s.skip = .notSkipping) (flag : Bool) : s.ignores flag = false := by
  simp [State.ignores, hskip]

/-- The flag of an instruction other than EXIT and EXITL decides whether it is skipped, and nothing else. -/
theorem exec_term_eq_unlessSkipped {op : Op} (hop : isExitOp op = false) (i j k : Field5) (h : BitVec 24)
    (s : State) :
    ∃ body, ∀ flag, exec (op.term flag i j k h) s = unlessSkipped flag (opLen op) s body := by
  cases op with
  | exit | exitl => cases hop
  | _ =>
    simp only [Op.term, exec]
    exact ⟨_, fun _ => rfl⟩

/-- While skipping, a flagged EXITL is its exit point alone (41_exit.md R97, D29). -/
theorem execExitl_of_ignores {flag : Bool} (hf : s.ignores flag = true) (i j k : Field5) :
    execExitl flag i j k s = exitPoint s := if_pos hf

theorem execExitl_flag_of_notSkipping (hskip : s.skip = .notSkipping) (flag flag' : Bool) (i j k : Field5) :
    execExitl flag i j k s = execExitl flag' i j k s := by
  simp only [execExitl, ignores_of_notSkipping hskip]

/-- While not skipping, the flag of an instruction plays no part (R102). -/
theorem exec_term_flag_of_notSkipping (hskip : s.skip = .notSkipping) (op : Op) (i j k : Field5)
    (h : BitVec 24) : exec (op.term true i j k h) s = exec (op.term false i j k h) s := by
  cases hop : isExitOp op with
  | false =>
    obtain ⟨body, hbody⟩ := exec_term_eq_unlessSkipped hop i j k h s
    simp only [hbody, unlessSkipped_of_not (ignores_of_notSkipping hskip _)]
  | true =>
    cases op with
    | exit => rfl
    | exitl => exact execExitl_flag_of_notSkipping hskip true false i j k
    | _ => cases hop

/-- Settles O11: a flagged instruction other than an exit is `unlessSkipped`, which only advances while
skipping; the two exits and the state that is not skipping have lemmas of their own. -/
theorem skippingRule : Obligations.SkippingRule := by
  intro op i j k h s
  refine ⟨fun hskip hop hn => ?_, fun hskip => ?_, rfl, fun hskip => ?_⟩
  · obtain ⟨body, hbody⟩ := exec_term_eq_unlessSkipped hop i j k h s
    rw [hbody, unlessSkipped_of_ignores (ignores_true_of_skipping hskip)]
    exact advance_below hn
  · exact execExitl_of_ignores (ignores_true_of_skipping hskip) i j k
  · exact exec_term_flag_of_notSkipping hskip op i j k h

/-! ### The step of a skip (R105, R107 to R114) -/

theorem exec_skipOf (f : CondFn) (flag : Bool) (i j k : Field5) (s : State) :
    exec (skipOf f flag i j k) s = skipOn f flag i j s := by cases f <;> rfl

/-- Settles O12: a skipped SKIP only advances, and any other advances from the state whose skip state it set. -/
theorem skipStep : Obligations.SkipStep := by
  intro f flag i j k s hn
  rw [exec_skipOf, skipOn, unlessSkipped_eq_ite]
  by_cases hskip : s.skip = .skipping ∧ flag = true
  · rw [if_pos hskip, if_pos hskip]
    exact advance_below hn
  · rw [if_neg hskip, if_neg hskip]
    exact advance_below (s := { s with skip := _ }) hn

/-- Not skipped, a SKIP gives skipping exactly when the condition of its function holds. -/
theorem skipOf_skipping_iff (f : CondFn) (flag : Bool) (i j k : Field5) (hn : s.loc.toNat + 1 < 2 ^ 24)
    (hskip : ¬ (s.skip = .skipping ∧ flag = true)) :
    ∃ t, exec (skipOf f flag i j k) s = .next t ∧
      (t.skip = .skipping ↔ f.Holds (cbit s.c i = true) (cbit s.c j = true)) := by
  refine ⟨_, skipStep f flag i j k s hn, ?_⟩
  rw [if_neg hskip, ← f.eval_eq_true_iff]
  simp

/-- Settles O13: `skipOf_skipping_iff` for each of the eight functions. -/
theorem skipConditions : Obligations.SkipConditions := by
  intro flag i j k s hn hskip
  have hiff (f : CondFn) := skipOf_skipping_iff f flag i j k hn hskip
  exact ⟨hiff .and, hiff .taf, hiff .faf, hiff .or, hiff .tof, hiff .fof, hiff .eq, hiff .xor⟩

/-! ### What alters the skip state (R103) -/

/-- The rows of R103's table for the EXIT of a supervisor call and of the two returns. -/
def State.SkipSetAtExit (s t : State) : Prop :=
  (s.bstate = .outstanding .svc ∧ t.skip = .notSkipping) ∨
    ((s.bstate = .outstanding .svr ∨ s.bstate = .outstanding .ir) ∧
      t.skip = (decodeBsm s.inst.bsmCode (s11Bsm s.s11)).skip)

/-- The exit point keeps the skip state, or sets it for an SVC, SVR or IR, or enters an interruption. -/
theorem ExitEffect.skip_cases (h : ExitEffect s t) :
    t.skip = s.skip ∨ s.SkipSetAtExit t ∨ (s.exitTargetMissing = true ∧ t.justInterrupted) := by
  cases h with
  | advance | taken | takenIvib => exact .inl rfl
  | call hb => exact .inr (.inl (.inl ⟨hb, rfl⟩))
  | svr hb => exact .inr (.inl (.inr ⟨.inl hb, rfl⟩))
  | ir hb => exact .inr (.inl (.inr ⟨.inr hb, rfl⟩))
  | missing hm r a => exact .inr (.inr ⟨hm, justInterrupted_enterInterruption ..⟩)

/-- Settles O14: by cases on what the instruction did; only the effects that R103 tables alter the skip state. -/
theorem skipStateAlteredOnlyAsTabled : Obligations.SkipStateAlteredOnlyAsTabled := by
  intro i s t hx hne
  cases exec_effect hx with
  | advance | branch | irBranch | svcBranch | privileged => exact absurd rfl hne
  | skip f flag a b k hf => exact .inl ⟨f, flag, a, b, k, rfl, hf, rfl⟩
  | exit hi he =>
    obtain hkept | hset | ⟨hm, hj⟩ := he.skip_cases
    · exact absurd hkept hne
    · exact .inr (.inr (.inl ⟨hi, hset⟩))
    · exact .inr (.inr (.inr (.inl ⟨.inr (.inr (.inr (.inl ⟨hi, hm⟩))), hj⟩)))
  | exitl flag a b k hf he =>
    have hi : isExit (.exitl flag a b k) := ⟨flag, a, b, k, .inr rfl⟩
    obtain hreset | hset | ⟨hm, hj⟩ := he.skip_cases
    · exact .inr (.inl ⟨flag, a, b, k, rfl, hf, hreset⟩)
    · exact .inr (.inr (.inl ⟨hi, hset⟩))
    · rw [exitTargetMissing_afterMlx] at hm
      exact .inr (.inr (.inr (.inl ⟨.inr (.inr (.inr (.inl ⟨hi, hm⟩))), hj⟩)))
  | ic => exact .inr (.inr (.inr (.inl ⟨.inl rfl, justInterrupted_enterInterruption ..⟩)))
  | pause flag a b k hf hc =>
    exact .inr (.inr (.inr (.inl
      ⟨.inr (.inl ⟨flag, a, b, k, rfl, hf, hc⟩), justInterrupted_enterInterruption ..⟩)))
  | pi flag a b k hf =>
    exact .inr (.inr (.inr (.inl
      ⟨.inr (.inr (.inl ⟨flag, a, b, k, rfl, hf⟩)), justInterrupted_enterInterruption ..⟩)))
  | scanMissing flag a b k h r hf hm hb =>
    exact .inr (.inr (.inr (.inl ⟨.inr (.inr (.inr (.inr ⟨flag, a, b, k, h, rfl, hf, hm, hb⟩))),
      justInterrupted_enterInterruption ..⟩)))
  | scanLoad flag a b k h block hload hb =>
    exact .inr (.inr (.inr (.inr ⟨hload, block, rfl, flag, a, b, k, h, rfl, hb⟩)))

end Sys2Proof.Machine
end

section
/-! PROOFS of the family 43_special_branch: IVIB, PAUSE, PI, the supervisor call and return, the interruption
and its return, the address of SCAN, and the refusal of R131 and D9 at the return. The four special branches
become outstanding by one lemma, `branch_or_advance`; PAUSE and PI are the IC of the machine standing at the
next location, by `interrupt_eq_exec_ic`. -/

namespace Sys2Proof.Machine

variable {s : State} {flag : Bool} {i j k r : Field5}

/-! ### IVIB, SVC, SVR and IR at the instruction (43_special_branch.md R118, R124, R128, R136) -/

theorem unlessSkipped_of_executed {len : Nat} {body : State → Result}
    (hskip : ¬ (s.skip = .skipping ∧ flag = true)) : unlessSkipped flag len s body = body s := by
  rw [unlessSkipped_eq_ite, if_neg hskip]

/-- With none outstanding a special branch advances from `u`, the state in which it is the outstanding one;
else it only advances. -/
theorem branch_or_advance (s : State) {len : Nat} {u : State} (hu : u.loc = s.loc)
    (hn : s.loc.toNat + len < 2 ^ 24) :
    (if s.bstate = .none then advance len u else advance len s) = .next
      (if s.bstate = .none then { u with loc := s.nextLoc len } else { s with loc := s.nextLoc len }) := by
  split_ifs
  · rw [advance_below (hu ▸ hn), State.nextLoc, hu, State.nextLoc]
  · exact advance_below hn

theorem not_problem_of_supervisory (hm : s.mode.sup = .supervisory) : s.mode.sup ≠ .problem := by
  simp [hm]

/-- Settles O18: `branch_or_advance`, with IVIB and its eba. -/
theorem ivibStep : Obligations.IvibStep := by
  intro flag i j k h s hn hskip
  rw [exec, execIvib, unlessSkipped_of_executed hskip]
  exact branch_or_advance s rfl hn

/-- Settles O23: `branch_or_advance`, with SVC and the literal in X[i]. -/
theorem svcStep : Obligations.SvcStep := by
  intro flag i j k s hn hskip
  rw [exec, execSvc, unlessSkipped_of_executed hskip]
  exact branch_or_advance s rfl hn

/-- Settles O25: `branch_or_advance`, with SVR and its eba, since the mode is supervisory. -/
theorem svrStep : Obligations.SvrStep := by
  intro flag i j k h s hn hskip hm
  rw [exec, execSvr, unlessSkipped_of_executed hskip, if_neg (not_problem_of_supervisory hm)]
  exact branch_or_advance s rfl hn

/-- Settles O28: `branch_or_advance`, with IR, since the mode is supervisory. -/
theorem irStep : Obligations.IrStep := by
  intro flag i j k s hn hskip hm
  rw [exec, execIr, unlessSkipped_of_executed hskip, if_neg (not_problem_of_supervisory hm)]
  exact branch_or_advance s rfl hn

/-! ### IC, PAUSE and PI (R120, R121, R134) -/

/-- Settles O27: the state that `State.enterInterruption` leaves, field by field. -/
theorem interruptCall : Obligations.InterruptCall := by
  intro s h0
  exact ⟨_, interrupt_of_present h0, s11IcMode_s11Of .., mode_enterInterruption _, fun hb => if_neg hb,
    s11Bsm_s11Of .., s11SvcMode_s11Of .., s11Rest_s11Of .., rfl⟩

/-- An interruption with a given return address is the IC of the machine standing there (R133). -/
theorem interrupt_eq_exec_ic (ret : Addr) (s : State) : interrupt ret s = exec .ic { s with loc := ret } := rfl

theorem canTake_iff :
    s.canTake = true ↔ s.mode.dis = .enabled ∧ (excAny s.exc = true ∨ s.outsideAsks = true) := by
  rw [canTake_eq, Bool.and_eq_true, Bool.or_eq_true, beq_iff_eq]

theorem pauseHere_of_not_canTake (hc : ¬ s.canTake = true) : pauseHere s = advance 1 s := if_neg hc

theorem pauseHere_of_canTake (hc : s.canTake = true) (hn : s.loc.toNat + 1 < 2 ^ 24) :
    pauseHere s = interrupt (s.nextLoc 1) s := (if_pos hc).trans (if_pos (hasNext_iff.mpr hn))

/-- Settles O20: by whether an interruption can be taken, which is D17's test. -/
theorem pauseStep : Obligations.PauseStep := by
  intro flag i j k s hn hskip
  have hexec : exec (.pause flag i j k) s = pauseHere s := unlessSkipped_of_executed hskip
  refine ⟨fun hnot => ?_, fun hm hpending => ?_⟩
  · rw [hexec, pauseHere_of_not_canTake (canTake_iff.not.mpr hnot)]
    exact advance_below hn
  · rw [hexec, pauseHere_of_canTake (canTake_iff.mpr ⟨hm, hpending⟩) hn]
    exact interrupt_eq_exec_ic ..

theorem watchedBranch_iff {b : BranchState} :
    watchedBranch b = true ↔ b = .outstanding .ivib ∨ b = .outstanding .svr := by
  rcases b with _ | (_ | _ | _ | _ | _) <;> simp [watchedBranch]

/-- The state in which PI takes its interruption: X[i] and the PI bit are set (R121). -/
def State.afterPi (s : State) (i j k : Field5) : State := (s.writeX i (sext24 (literalJk j k))).raisePi

/-- The PI bit just set is what makes the interruption of an enabled PI one that can be taken. -/
theorem canTake_afterPi (hm : s.mode.dis = .enabled) : (s.afterPi i j k).canTake = true :=
  canTake_iff.mpr ⟨hm, .inl (by simp [State.afterPi, excAny])⟩

/-- An executed PI that the model does not refuse is an interruption of the machine after its writes. -/
theorem exec_pi_eq_interrupt (hn : s.loc.toNat + 1 < 2 ^ 24) (hskip : ¬ (s.skip = .skipping ∧ flag = true))
    (hm : s.mode.dis = .enabled) (hreg : ¬ (watchedBranch s.bstate = true ∧ s.ebaReg = some i)) :
    exec (.pi flag i j k) s = interrupt (s.nextLoc 1) (s.afterPi i j k) := by
  rw [exec, execPi, unlessSkipped_of_executed hskip, if_neg hreg, if_neg (by simp [hm])]
  exact pauseHere_of_canTake (canTake_afterPi hm) hn

/-- Settles O21: PI is the IC of the machine after its writes, and the rest is read off the state that IC
leaves. -/
theorem piStep : Obligations.PiStep := by
  intro flag i j k s hn hskip hm h0 hreg
  rw [← watchedBranch_iff] at hreg
  have hexec := exec_pi_eq_interrupt (j := j) (k := k) hn hskip hm hreg
  have hnext : interrupt (s.nextLoc 1) (s.afterPi i j k) = .next _ := interrupt_of_present h0
  exact ⟨_, hexec.trans hnext, (interrupt_eq_exec_ic ..).symm.trans hnext, readX_writeX_same ..,
    fun n hne => readX_writeX_other _ hne, rfl, rfl, justInterrupted_enterInterruption .., rfl, rfl, rfl, rfl,
    s11IcMode_s11Of .., s11SvcMode_s11Of .., s11Rest_s11Of ..⟩

/-! ### IVIB, SVC, SVR and IR at the EXIT (R119, R127, R129, R137) -/

/-- Settles O19: the transfer of IVIB's exit point, its target being present. -/
theorem ivibEmptiesBuffersAtExit : Obligations.IvibEmptiesBuffersAtExit := by
  intro flag i j k s hb hp
  exact (exitPoint_ivib hb).trans (transfer_of_present hp)

/-- Settles O24: the state that `State.enterSupervisorCall` leaves, field by field. -/
theorem svcAtExit : Obligations.SvcAtExit := by
  intro flag i j k s hb hp
  exact ⟨_, (exitPoint_svc hb).trans (exitSvc_next.mpr ⟨hp, rfl⟩), s11SvcMode_s11Of ..,
    mode_enterSupervisorCall, s11Bsm_s11Of .., s11IcMode_s11Of .., s11Rest_s11Of .., rfl⟩

theorem bsmAtExit_ir (hb : s.bstate = .outstanding .ir) :
    s.bsmAtExit = decodeBsm s.inst.bsmCode (s11Bsm s.s11) := by rw [State.bsmAtExit, hb]

/-- With no branch in S11[3:9] and its target present, the exit point of an SVR goes there (R129). -/
theorem exitPoint_svr_of_present (hb : s.bstate = .outstanding .svr) (hnone : s.afterSvr.bstate = .none)
    (hp : s.isPresent (s.normalKey (decodeMode s.inst.modeEnc (s11SvcMode s.s11)).sup) s.ieba = true) :
    exitPoint s = .next { s.afterSvr with loc := s.ieba } :=
  (exitPoint_svr hb).trans (exitSvr_next.mpr ⟨hnone, transfer_of_present (by rw [mode_afterSvr]; exact hp)⟩)

/-- Where R131 does not stop it and S9 is present, the exit point of an IR goes there (R137). -/
theorem exitPoint_ir_of_present (hb : s.bstate = .outstanding .ir) (hw : s.irWritten = none)
    (hp : s.isPresent (s.normalKey (decodeMode s.inst.modeEnc (s11IcMode s.s11)).sup) s.s9 = true) :
    exitPoint s = .next { s.afterIr with loc := s.s9 } :=
  (exitPoint_ir hb).trans (exitIr_next.mpr ⟨hw, transfer_of_present (by rw [mode_afterIr]; exact hp)⟩)

/-- Settles O26: without a branch in S11[3:9] the return is taken from `State.afterSvr`; with one it is
refused. -/
theorem svrAtExit : Obligations.SvrAtExit := by
  intro flag i j k s hb
  refine ⟨fun hnone hp => ?_, fun hbranch => ?_⟩
  · refine ⟨_, exitPoint_svr_of_present hb hnone hp, mode_afterSvr (s := s), s11Mode_s11Of .., s11Bsm_s11Of ..,
      s11IcMode_s11Of .., s11SvcMode_s11Of .., s11Rest_s11Of .., ?_⟩
    rw [← hnone]
    rfl
  · exact (exitPoint_svr hb).trans (if_neg hbranch)

/-- Settles O29: the return is taken from `State.afterIr`, the premise keeping R131 from stopping it. -/
theorem irAtExit : Obligations.IrAtExit := by
  intro flag i j k s hb b m hp hunwritten
  have hw : s.irWritten = none := irWritten_eq_none hb (bsmAtExit_ir hb ▸ hunwritten)
  exact ⟨_, exitPoint_ir_of_present hb hw hp, mode_afterIr (s := s), s11Mode_s11Of .., s11Bsm_s11Of ..,
    s11IcMode_s11Of .., s11SvcMode_s11Of .., s11Rest_s11Of .., rfl⟩

/-! ### The address of SCAN (R141) -/

/-- Clearing the nine low-order bits takes the remainder modulo 512 away. -/
theorem toNat_clearLowNine (a : Addr) : (clearLowNine a).toNat = a.toNat - a.toNat % 512 := by
  have hlow : (a.toNat &&& 0xFFFE00) % 2 ^ 9 = 0 := by rw [Nat.and_mod_two_pow]; exact Nat.and_zero _
  have hhigh : (a.toNat &&& 0xFFFE00) / 2 ^ 9 = a.toNat / 2 ^ 9 % 2 ^ 15 := by
    rw [Nat.and_div_two_pow]; exact Nat.and_two_pow_sub_one_eq_mod _ 15
  have ha : a.toNat < 2 ^ 24 := a.isLt
  change a.toNat &&& 0xFFFE00 = _
  omega

/-- Settles O34: the address is the sum without its remainder, and 2^24 is a multiple of 512. -/
theorem scanAddressIsAligned : Obligations.ScanAddressIsAligned := by
  intro s k h
  have hsum : (s.scanAddress k h).toNat = (s.readX k + h).toNat - (s.readX k + h).toNat % 512 :=
    toNat_clearLowNine _
  have hlt : (s.readX k + h).toNat < 2 ^ 24 := (s.readX k + h).isLt
  have hunits : s.inst.scanUnits.val < 513 := s.inst.scanUnits.isLt
  exact ⟨hsum, by omega, by omega, by omega⟩

/-! ### A register written within the interruption routine (R131, D9) -/

/-- The exit of an IR that would make an IVIB or SVR outstanding again is refused once its register is recorded
as written. -/
theorem exitPoint_ir_of_written (hb : s.bstate = .outstanding .ir)
    (hwatched : watchedBranch (decodeBsm s.inst.bsmCode (s11Bsm s.s11)).branch = true)
    (hw : s.savedEbaWritten = some r) : exitPoint s = .refused (.ebaRegisterWritten r) :=
  (exitPoint_ir hb).trans (exitIr_of_written ((if_pos hwatched).trans hw))

/-- While no IVIB or SVR is outstanding, an executed EXITL is its exit point after MLX (41_exit.md R96). -/
theorem execExitl_of_not_watched (hskip : ¬ (s.skip = .skipping ∧ flag = true))
    (hb : watchedBranch s.bstate = false) : execExitl flag i j k s = exitPoint (s.afterMlx i j k) := by
  have hexec : s.ignores flag = false := by simpa [State.ignores] using hskip
  cases hreg : s.ebaReg <;> simp [execExitl, mlxTouchesEba, hexec, hb, hreg]

/-- MLX records a change of the register that an interrupted IVIB or SVR took its eba from, and nothing else. -/
theorem savedEbaWritten_afterMlx (hreg : s.savedEbaReg = some r) :
    (s.afterMlx i j k).savedEbaWritten =
      if (s.afterMlx i j k).readX r ≠ s.readX r then some r else s.savedEbaWritten := by
  rw [afterMlx_savedEbaWritten, loadX_savedEbaWritten, hreg]
  exact if_congr bne_iff_ne rfl rfl

/-- Settles O55: the record that MLX and SVC leave is said by `savedEbaWritten_afterMlx` and O23, and the exit
of the IR is refused by `exitPoint_ir_of_written` once it is there. -/
theorem writtenEbaRegisterRefusedAtReturn : Obligations.WrittenEbaRegisterRefusedAtReturn := by
  intro flag i j k r s hreg _ returns t
  have hrecord : t.savedEbaWritten = if t.readX r ≠ s.readX r then some r else s.savedEbaWritten :=
    savedEbaWritten_afterMlx hreg
  have hexit (hskip : ¬ (s.skip = .skipping ∧ flag = true)) (hb : watchedBranch s.bstate = false) :
      exec (.exitl flag i j k) s = exitPoint t := execExitl_of_not_watched hskip hb
  refine ⟨fun ⟨hb, hwatched⟩ hw => exitPoint_ir_of_written hb hwatched hw,
    fun ⟨hb, hwatched⟩ hskip => ?_, fun hb hskip hn => ⟨?_, ?_⟩⟩
  · rw [hexit hskip (by rw [hb]; rfl)]
    split_ifs with hwritten
    · refine exitPoint_ir_of_written hb hwatched (hrecord.trans ?_)
      split_ifs with hchanged
      · rfl
      · exact hwritten.resolve_left hchanged
    · rfl
  · have hnext := (exitPoint_none (s := t) hb).trans (advance_below (s := t) hn)
    exact ⟨_, (hexit hskip (by rw [hb]; rfl)).trans hnext, hreg, hrecord⟩
  · refine ⟨_, svcStep flag r j k s hn hskip, ?_⟩
    rw [if_pos hb]
    exact ⟨hreg, if_pos hreg⟩

end Sys2Proof.Machine
end

section
/-! PROOFS of the family 60_exceptions: that the returns stay privileged, and that an interruption and a
supervisor call bring back the program that they leave. `State.ReturnsPrivileged` speaks of the parameters, the
carry state, S11 and the branch state alone; each state that writes one of the last three has its own lemma. -/

namespace Sys2Proof.Machine

variable {s t : State} {i : Instr}

/-! ### What keeps the returns privileged (60_exceptions.md R165, R167) -/

/-- A new branch state is no harm where it awaits no return to be withheld from a problem program. -/
theorem State.ReturnsPrivileged.of_bstate (h : s.ReturnsPrivileged) (hinst : t.inst = s.inst)
    (hcarry : t.carry = s.carry) (hs11 : t.s11 = s.s11)
    (hb : s.mode.sup = .problem → returnOutstanding t.bstate = false) : t.ReturnsPrivileged := by
  obtain ⟨hlaws, hcarries, -, hsaved⟩ := h
  have hmode : t.mode = s.mode := by rw [State.mode, hinst, hs11, State.mode]
  rw [State.ReturnsPrivileged, hmode, hinst, hcarry, hs11]
  exact ⟨hlaws, hcarries, hb, hsaved⟩

/-- An interruption saves the mode it finds together with the branch state that it finds (R134). -/
theorem State.ReturnsPrivileged.enterInterruption (h : s.ReturnsPrivileged) (a : Addr) :
    (s.enterInterruption a).ReturnsPrivileged := by
  obtain ⟨⟨hopc, hround, hno, hdec⟩, hcarry, hreturn, -⟩ := h
  refine ⟨⟨hopc, hround, hno, hdec⟩, hno, fun _ => rfl, fun hm => ?_⟩
  have hsaved : decodeBsm s.inst.bsmCode (s11Bsm (s.enterInterruption a).s11) = s.bsm := by
    rw [enterInterruption_s11, s11Bsm_s11Of, decodeBsm_encodeBsm hround hcarry]
  rw [enterInterruption_s11, s11IcMode_s11Of] at hm
  rw [enterInterruption_inst, hsaved]
  exact hreturn hm

/-- A supervisor call saves a branch state with none outstanding (R127). -/
theorem State.ReturnsPrivileged.enterSupervisorCall (h : s.ReturnsPrivileged) :
    s.enterSupervisorCall.ReturnsPrivileged := by
  obtain ⟨⟨hopc, hround, hno, hdec⟩, hcarry, -, -⟩ := h
  refine ⟨⟨hopc, hround, hno, hdec⟩, hno, fun _ => rfl, fun _ => ?_⟩
  rw [enterSupervisorCall_inst, enterSupervisorCall_s11, s11Bsm_s11Of, decodeBsm_encodeBsm hround hcarry]
  rfl

/-- An SVR that the model does not refuse makes no branch outstanding (R129). -/
theorem State.ReturnsPrivileged.afterSvr (h : s.ReturnsPrivileged) (hnone : s.afterSvr.bstate = .none) :
    s.afterSvr.ReturnsPrivileged := by
  obtain ⟨⟨hopc, hround, hno, hdec⟩, -, -, hsaved⟩ := h
  refine ⟨⟨hopc, hround, hno, hdec⟩, hdec _, fun _ => by rw [hnone]; rfl, ?_⟩
  rw [afterSvr_s11, s11IcMode_s11Of, s11Bsm_s11Of]
  exact hsaved

/-- An IR restores the saved mode together with the saved branch state (R137). -/
theorem State.ReturnsPrivileged.afterIr (h : s.ReturnsPrivileged) : s.afterIr.ReturnsPrivileged := by
  obtain ⟨⟨hopc, hround, hno, hdec⟩, -, -, hsaved⟩ := h
  refine ⟨⟨hopc, hround, hno, hdec⟩, hdec _, ?_, ?_⟩
  · rw [mode_afterIr]
    exact hsaved
  · rw [afterIr_s11, s11IcMode_s11Of, s11Bsm_s11Of]
    exact hsaved

/-- A missing target interrupts the state in which the transfer was tried, which is one of those above. -/
theorem ExitEffect.keeps_returnsPrivileged (he : ExitEffect s t) (h : s.ReturnsPrivileged) :
    t.ReturnsPrivileged := by
  cases he with
  | advance => exact h
  | taken | takenIvib => exact h.of_bstate rfl rfl rfl fun _ => rfl
  | call => exact h.enterSupervisorCall
  | svr hb hnone => exact h.afterSvr hnone
  | ir => exact h.afterIr
  | missing hm r a hr =>
    suffices hr' : r.ReturnsPrivileged from State.ReturnsPrivileged.enterInterruption (s := r.raiseMi) hr' a
    obtain rfl | rfl | ⟨-, hnone, rfl⟩ | ⟨-, rfl⟩ := hr
    · exact h.of_bstate rfl rfl rfl fun _ => rfl
    · exact h.of_bstate rfl rfl rfl fun _ => rfl
    · exact h.afterSvr hnone
    · exact h.afterIr

/-- D15: an SVR or IR becomes the outstanding branch in supervisory mode only. -/
theorem Effect.keeps_returnsPrivileged (he : Effect s i t) (hl : ¬ s.loadsMachine i)
    (h : s.ReturnsPrivileged) : t.ReturnsPrivileged := by
  cases he with
  | advance | skip | privileged => exact h
  | branch hi hn hb kind a r hk =>
    refine h.of_bstate rfl rfl rfl fun hm => Bool.eq_false_iff.mpr fun hreturn => ?_
    exact not_problem_of_supervisory (hk hreturn) hm
  | irBranch f a b k hn hb hm => exact h.of_bstate rfl rfl rfl fun hp => absurd hp (not_problem_of_supervisory hm)
  | svcBranch => exact h.of_bstate rfl rfl rfl fun _ => rfl
  | exit hi he => exact he.keeps_returnsPrivileged h
  | exitl f a b k hf he => exact he.keeps_returnsPrivileged h
  | ic | pause => exact h.enterInterruption _
  | pi f a b k =>
    exact State.ReturnsPrivileged.enterInterruption (s := (s.writeX a (sext24 (literalJk b k))).raisePi) h _
  | scanMissing => exact State.ReturnsPrivileged.enterInterruption (s := s.raiseMa) h _
  | scanLoad f a b k d block hload => exact absurd hload hl

/-- Settles O56: the moment writes nothing the invariant speaks of, and what then runs is no SCAN. -/
theorem returnsStayPrivileged : Obligations.ReturnsStayPrivileged := by
  intro s s' h hstep hscan
  obtain ⟨-, hx⟩ | ⟨hic, i, hfetch, hx⟩ := step_next.mp hstep
  · exact (exec_effect hx).keeps_returnsPrivileged (not_loadsMachine_of_ne_scan (by simp)) h
  · refine (exec_effect hx).keeps_returnsPrivileged (not_loadsMachine_of_ne_scan ?_) h
    rintro f a b k d rfl
    exact hscan hic f a b k d hfetch

/-! ### Where a branch goes is not part of the mode (10_state.md R22) -/

theorem mode_withLoc (s : State) (a : Addr) : ({ s with loc := a } : State).mode = s.mode := rfl

/-! ### An interruption and its return (R160, R163) -/

section Interruption

/-- The state an IR leaves that becomes the outstanding branch (43_special_branch.md R136). -/
def State.awaitingIr (s : State) : State := { s with loc := s.nextLoc 1, bstate := .outstanding .ir }

variable (s : State) (a : Addr)

/-- At location 0, where an interruption has just been entered, an IR is neither skipped nor withheld nor
suppressed. -/
theorem exec_ir_of_interrupted :
    exec (.ir false 0 0 0) (s.enterInterruption a) = .next (s.enterInterruption a).awaitingIr := by
  refine (irStep false 0 0 0 _ ?_ ?_ ?_).trans (congrArg _ (if_pos rfl))
  · simp [interruptionLocation]
  · simp
  · rw [mode_enterInterruption]; rfl

/-- The mode that the return restores is the one the interruption found. -/
theorem mode_afterIr_of_interrupted : (s.enterInterruption a).awaitingIr.afterIr.mode = s.mode := by
  rw [mode_afterIr]
  exact congrArg (decodeMode s.inst.modeEnc) (s11IcMode_s11Of ..)

/-- The branch-skip-MPC state that the return restores is what the 7-bit code makes of the one the interruption
found. -/
theorem bsm_afterIr_of_interrupted : (s.enterInterruption a).awaitingIr.afterIr.bsm =
    decodeBsm s.inst.bsmCode (encodeBsm s.inst.bsmCode s.bsm) :=
  congrArg (decodeBsm s.inst.bsmCode) (s11Bsm_s11Of ..)

theorem s11SvcMode_afterIr_of_interrupted :
    s11SvcMode (s.enterInterruption a).awaitingIr.afterIr.s11 = s11SvcMode s.s11 := by
  rw [afterIr_s11, s11SvcMode_s11Of]
  exact s11SvcMode_s11Of ..

/-- The exit of that IR goes back to the return address: R131 does not stop it, for entering the interruption
forgets every register written. -/
theorem exit_of_interrupted (hp : s.isPresent (s.normalKey s.mode.sup) a = true) :
    exec (.exit false 0 0 0) (s.enterInterruption a).awaitingIr =
      .next { (s.enterInterruption a).awaitingIr.afterIr with loc := a } := by
  have hw : (s.enterInterruption a).awaitingIr.irWritten = none := irWritten_eq_none rfl fun _ => rfl
  refine exitPoint_ir_of_present rfl hw ?_
  rw [← mode_afterIr, mode_afterIr_of_interrupted]
  exact hp

end Interruption

/-- Settles O30: the return goes to the location it left, from `State.afterIr`, which holds what the
interruption saved. -/
theorem interruptionIsInvisible : Obligations.InterruptionIsInvisible := by
  intro s h0 hloc hround
  have hbsm := (bsm_afterIr_of_interrupted s s.loc).trans hround
  exact ⟨_, _, _, interrupt_of_present h0, exec_ir_of_interrupted s s.loc, exit_of_interrupted s s.loc hloc,
    mode_afterIr_of_interrupted s s.loc, rfl, congrArg Bsm.branch hbsm, congrArg Bsm.skip hbsm,
    congrArg Bsm.carry hbsm, fun hb => if_neg hb, rfl, rfl, rfl, rfl,
    s11SvcMode_afterIr_of_interrupted s s.loc⟩

/-! ### A supervisor call and its return (R159, R161) -/

section SupervisorCall

/-- The state an SVC leaves that becomes the outstanding branch (43_special_branch.md R124). -/
def State.awaitingSvc (s : State) (i j k : Field5) : State :=
  { s.writeX i (sext24 (literalJk j k)) with loc := s.nextLoc 1, bstate := .outstanding .svc }

theorem mode_awaitingSvc (s : State) (i j k : Field5) : (s.awaitingSvc i j k).mode = s.mode := rfl

/-- The state an SVR leaves that becomes the outstanding branch (43_special_branch.md R128). -/
def State.awaitingSvr (s : State) (r : Field5) (h : BitVec 24) : State :=
  { s.makeOutstanding .svr (s.ebaLong r h) (some r) with loc := s.nextLoc 2 }

variable (s : State) (r : Field5) (h : BitVec 24)

/-- At location 256, where a supervisor call has just been entered, an SVR is neither skipped nor withheld nor
suppressed. -/
theorem exec_svr_of_called :
    exec (.svr false 0 0 r h) s.enterSupervisorCall = .next (s.enterSupervisorCall.awaitingSvr r h) := by
  refine (svrStep false 0 0 r h _ ?_ ?_ ?_).trans (congrArg _ (if_pos rfl))
  · simp [supervisorCallLocation]
  · simp
  · rw [mode_enterSupervisorCall]; rfl

/-- The mode that the return restores is the one the call found. -/
theorem mode_afterSvr_of_called : (s.enterSupervisorCall.awaitingSvr r h).afterSvr.mode = s.mode := by
  rw [mode_afterSvr]
  exact congrArg (decodeMode s.inst.modeEnc) (s11SvcMode_s11Of ..)

/-- The skip and carry state that the return restores is what the 7-bit code makes of the one the call found. -/
theorem bsm_afterSvr_of_called : (s.enterSupervisorCall.awaitingSvr r h).afterSvr.bsm = decodeBsm s.inst.bsmCode
    (encodeBsm s.inst.bsmCode { branch := .none, skip := s.skip, carry := s.carry }) :=
  congrArg (decodeBsm s.inst.bsmCode) (s11Bsm_s11Of ..)

/-- The exit of that SVR goes to its eba, where the code brings back that no branch was outstanding. -/
theorem exit_of_called (hnone : (s.enterSupervisorCall.awaitingSvr r h).afterSvr.bstate = .none)
    (hp : s.isPresent (s.normalKey s.mode.sup) (s.readX r + h) = true) :
    exec (.exit false 0 0 0) (s.enterSupervisorCall.awaitingSvr r h) =
      .next { (s.enterSupervisorCall.awaitingSvr r h).afterSvr with loc := s.readX r + h } := by
  refine exitPoint_svr_of_present rfl hnone ?_
  rw [← mode_afterSvr, mode_afterSvr_of_called]
  exact hp

end SupervisorCall

/-- Settles O31: SVC and its exit enter location 256 with the literal written, and the return goes to the eba
of the SVR from `State.afterSvr`, which holds what the call saved. -/
theorem supervisorCallReturns : Obligations.SupervisorCallReturns := by
  intro i j k r h s hb hn h256 hback hround
  have hsvc : exec (.svc false i j k) s = .next (s.awaitingSvc i j k) :=
    (svcStep false i j k s hn (by simp)).trans (congrArg _ (if_pos hb))
  have hcall : exec (.exit false 0 0 0) (s.awaitingSvc i j k) =
      .next (s.awaitingSvc i j k).enterSupervisorCall :=
    (exitPoint_svc (s := s.awaitingSvc i j k) rfl).trans (exitSvc_next.mpr ⟨h256, rfl⟩)
  have hbsm := (bsm_afterSvr_of_called (s.awaitingSvc i j k) r h).trans hround
  have hreturn := exit_of_called (s.awaitingSvc i j k) r h (congrArg Bsm.branch hbsm) hback
  refine ⟨_, _, _, _, hsvc, hcall, rfl, ?_, readX_writeX_same (s := s) i _, exec_svr_of_called _ r h, hreturn, ?_,
    rfl, congrArg Bsm.branch hbsm, congrArg Bsm.skip hbsm, congrArg Bsm.carry hbsm, rfl, rfl, rfl, rfl⟩
  · rw [mode_enterSupervisorCall, mode_awaitingSvc]
    rfl
  · rw [mode_withLoc, mode_afterSvr_of_called, mode_awaitingSvc]

end Sys2Proof.Machine
end

section
/-! PROOFS of the family other, the invariant: what every step keeps of storage and of the registers that
43_special_branch.md R131 watches. `State.Inv` speaks of storage, of the branch state and of the three fields of
the model's own (log 24); each state that writes one of these has its own lemma. -/

namespace Sys2Proof.Machine

variable {s t : State} {i : Instr}

/-! ### The states that keep the invariant -/

/-- No register is watched while no IVIB or SVR is outstanding. -/
theorem State.Inv.ebaReg_eq_none (h : s.Inv) (hb : watchedBranch s.bstate = false) : s.ebaReg = none := by
  obtain ⟨-, hwatched, -⟩ := h
  rw [hb] at hwatched
  exact Option.not_isSome_iff_eq_none.mp fun hsome => Bool.false_ne_true (hwatched hsome)

/-- What writes neither storage nor the record of the interrupted program's register need only see to the
watched register. -/
theorem State.Inv.of_watched (h : s.Inv) (hmem : t.memory = s.memory) (hreg : t.savedEbaReg = s.savedEbaReg)
    (hwritten : t.savedEbaWritten = s.savedEbaWritten)
    (hwatched : t.ebaReg.isSome = true → watchedBranch t.bstate = true) : t.Inv := by
  obtain ⟨hwf, -, hsaved⟩ := h
  rw [State.Inv, hmem, hreg, hwritten]
  exact ⟨hwf, hwatched, hsaved⟩

/-- A branch that nothing watches may become outstanding where none is. -/
theorem State.Inv.withBstate (h : s.Inv) (hb : s.bstate = .none) (b : BranchState) (a : Addr) :
    ({ s with bstate := b, loc := a } : State).Inv := by
  have hreg : s.ebaReg = none := h.ebaReg_eq_none (by rw [hb]; rfl)
  exact h.of_watched rfl rfl rfl fun hsome => by simp [hreg] at hsome

/-- An interruption stops watching and forgets what was written (43_special_branch.md R134). -/
theorem inv_enterInterruption (h : s.memory.wf) (a : Addr) : (s.enterInterruption a).Inv :=
  ⟨h, by simp, by simp⟩

/-- A SCAN that loads the processor forgets every register. -/
theorem inv_loadImage (h : s.memory.wf) (m : MachineImage) : (s.loadImage m).Inv := ⟨h, by simp, by simp⟩

/-- A register write records no other register than the interrupted program's. -/
theorem State.Inv.writeX (h : s.Inv) (n : Field5) (v : Word24) : (s.writeX n v).Inv := by
  obtain ⟨hwf, hwatched, hsaved⟩ := h
  refine ⟨hwf, hwatched, ?_⟩
  rw [writeX_savedEbaWritten, writeX_savedEbaReg]
  split_ifs with hreg
  · exact fun _ => hreg.symm
  · exact hsaved

/-- Nor does MLX. -/
theorem State.Inv.afterMlx (h : s.Inv) (i j k : Field5) : (s.afterMlx i j k).Inv := by
  obtain ⟨hwf, hwatched, hsaved⟩ := h
  refine ⟨hwf, hwatched, ?_⟩
  rw [afterMlx_savedEbaReg]
  cases hreg : s.savedEbaReg with
  | none => simpa [hreg] using hsaved
  | some r =>
    rw [savedEbaWritten_afterMlx hreg]
    split_ifs
    · exact fun _ => rfl
    · exact hreg ▸ hsaved

/-- The exit of an SVR stops watching (R129). -/
theorem State.Inv.afterSvr (h : s.Inv) : s.afterSvr.Inv := h.of_watched rfl rfl rfl fun hsome => nomatch hsome

theorem afterIr_ebaReg (s : State) :
    s.afterIr.ebaReg = if watchedBranch s.afterIr.bstate then s.savedEbaReg else none := rfl

/-- The exit of an IR watches the interrupted program's register where an IVIB or SVR becomes outstanding again
(R137). -/
theorem State.Inv.afterIr (h : s.Inv) : s.afterIr.Inv := by
  refine h.of_watched rfl rfl rfl fun hsome => ?_
  by_contra hunwatched
  rw [afterIr_ebaReg, if_neg hunwatched] at hsome
  cases hsome

/-! ### The step -/

/-- A taken branch stops watching; a missing target interrupts one of the states in which a transfer is tried. -/
theorem ExitEffect.keeps_inv (he : ExitEffect s t) (h : s.Inv) : t.Inv := by
  cases he with
  | advance => exact h
  | taken | takenIvib | call => exact h.of_watched rfl rfl rfl fun hsome => nomatch hsome
  | svr => exact h.afterSvr
  | ir => exact h.afterIr
  | missing hm r a hr =>
    suffices hwf : r.memory.wf from inv_enterInterruption (s := r.raiseMi) hwf a
    obtain rfl | rfl | ⟨-, -, rfl⟩ | ⟨-, rfl⟩ := hr <;> exact h.1

/-- Only an IVIB or SVR that becomes outstanding has a register watched. -/
theorem Effect.keeps_inv (he : Effect s i t) (h : s.Inv) : t.Inv := by
  cases he with
  | advance | skip | privileged => exact h
  | branch hi hn hb k a r hk hr => exact h.of_watched rfl rfl rfl hr
  | irBranch f a b k hn hb => exact h.withBstate hb _ _
  | svcBranch f a b k hf hn hb => exact (h.writeX a _).withBstate hb _ _
  | exit hi he => exact he.keeps_inv h
  | exitl f a b k hf he => exact he.keeps_inv (h.afterMlx a b k)
  | ic | pause => exact inv_enterInterruption h.1 _
  | pi f a b k => exact inv_enterInterruption (s := (s.writeX a (sext24 (literalJk b k))).raisePi) h.1 _
  | scanMissing => exact inv_enterInterruption (s := s.raiseMa) h.1 _
  | scanLoad => exact inv_loadImage h.1 _

/-- Settles O50: the moment and the prefetch write nothing the invariant speaks of, and what then runs keeps it. -/
theorem invariantKeptByEveryStep : Obligations.InvariantKeptByEveryStep := by
  intro s s' h hstep
  obtain ⟨-, hx⟩ | ⟨-, i, -, hx⟩ := step_next.mp hstep
  · exact (exec_effect hx).keeps_inv h
  · exact (exec_effect hx).keeps_inv h

end Sys2Proof.Machine
end

section
/-! PROOFS of the family other, the step: the interruption that is taken before an instruction, the fetch that
storage answers and its refusals, and that the instruction in storage is the one that runs. -/

namespace Sys2Proof.Machine

variable {s : State} {m : Moment} {i : Instr}

/-! ### A step is an IC, a refused fetch, or the instruction fetched (60_exceptions.md R152) -/

theorem takesIc_iff :
    s.takesIc = true ↔ s.moment.takeIc = true ∧ s.mode.dis = .enabled ∧
      (excAny s.begin.exc = true ∨ s.moment.asks = true) := by
  rw [State.takesIc, Bool.and_eq_true, canTake_iff, and_comm]
  rfl

theorem step_of_takesIc (hic : s.takesIc = true) : step s = exec .ic s.begin := if_pos hic

theorem step_of_fetch (hic : s.takesIc = false) (hfetch : s.begin.fetch s.moment = .ok i) :
    step s = exec i (s.begin.prefetch s.moment) := by
  simp [step, hic, hfetch]

theorem step_of_fetch_error {r : Refusal} (hic : s.takesIc = false)
    (hfetch : s.begin.fetch s.moment = .error r) : step s = .refused r := by
  simp [step, hic, hfetch]

/-- Settles O48: `takesIc_iff`; what is not taken leaves the step to the instruction fetched. -/
theorem interruptionBetweenInstructions : Obligations.InterruptionBetweenInstructions := by
  intro s
  refine ⟨fun htake hm hpending => step_of_takesIc (takesIc_iff.mpr ⟨htake, hm, hpending⟩),
    fun hnot i hfetch => step_of_fetch (Bool.eq_false_iff.mpr fun hic => ?_) hfetch⟩
  obtain ⟨htake, hm, hpending⟩ := takesIc_iff.mp hic
  obtain hdisabled | hlater | ⟨hexc, hasks⟩ := hnot
  · simp [hm] at hdisabled
  · simp [htake] at hlater
  · simp only [hexc, hasks, Bool.false_eq_true, or_self] at hpending

/-! ### The fetch that storage answers (20_memory.md R41, R43) -/

section Fetch

variable {u0 u1 : Unit24} (hst : m.fetchesStorage)
include hst

theorem fetch_missing (h0 : s.memory.read (location (s.normalKey s.mode.sup) s.loc) = none) :
    s.fetch m = .error (.missingInstructionUnit (s.normalKey s.mode.sup) s.loc) := by
  simp [State.fetch, State.fetchUnit, hst.1, h0]

variable (h0 : s.memory.read (location (s.normalKey s.mode.sup) s.loc) = some u0)
include h0

/-- A unit that tells no long instruction is decoded alone. -/
theorem fetch_of_not_long (hlen : lengthOf s.inst.opc u0 ≠ some 2) : s.fetch m = instrOf s.inst.opc [u0] := by
  simp [State.fetch, State.fetchUnit, hst.1, h0, hlen]

variable (hlen : lengthOf s.inst.opc u0 = some 2)
include hlen

theorem fetch_long_at_odd (ha : s.inst.longAligned = true) (hodd : s.loc.toNat % 2 = 1) :
    s.fetch m = .error (.oddLongInstruction s.loc) := by
  simp [State.fetch, State.fetchUnit, hst.1, h0, hlen, ha, hodd]

variable (hplace : ¬ (s.inst.longAligned = true ∧ s.loc.toNat % 2 = 1))
include hplace

theorem fetch_long_past_top (htop : 2 ^ 24 < s.loc.toNat + 2) : s.fetch m = .error .pastTopOfStorage := by
  have hroom : ¬ s.loc.toNat + 2 ≤ 2 ^ 24 := by omega
  simp only [State.fetch, State.fetchUnit, hst.1, h0, if_pos hlen, if_neg hplace, if_neg hroom]

variable (hroom : s.loc.toNat + 2 ≤ 2 ^ 24)
include hroom

theorem fetch_long_missing (h1 : s.memory.read (location (s.normalKey s.mode.sup) s.secondUnit) = none) :
    s.fetch m = .error (.missingInstructionUnit (s.normalKey s.mode.sup) s.secondUnit) := by
  simp only [State.fetch, State.fetchUnit, hst.1, hst.2, h0, h1, if_pos hlen, if_neg hplace, if_pos hroom]

/-- A long instruction is decoded from its two units. -/
theorem fetch_long (h1 : s.memory.read (location (s.normalKey s.mode.sup) s.secondUnit) = some u1) :
    s.fetch m = instrOf s.inst.opc [u0, u1] := by
  simp only [State.fetch, State.fetchUnit, hst.1, hst.2, h0, h1, if_pos hlen, if_neg hplace, if_pos hroom]

end Fetch

/-- Settles O47: each refusal of the fetch is the step's. -/
theorem fetchRefusals : Obligations.FetchRefusals := by
  intro s hic hst key
  refine ⟨fun h0 => step_of_fetch_error hic (fetch_missing hst h0), fun u h0 hlen =>
    ⟨fun ha hodd => ?_, fun ha htop => ?_, fun hplace hlt h1 => ?_⟩⟩
  · exact step_of_fetch_error hic (fetch_long_at_odd hst h0 hlen ha hodd)
  · refine step_of_fetch_error hic (fetch_long_past_top hst h0 hlen (by simp [ha]) ?_)
    rw [begin_loc]
    omega
  · refine step_of_fetch_error hic (fetch_long_missing hst h0 hlen ?_ ?_ h1)
    · rintro ⟨ha, hodd⟩
      rw [begin_inst] at ha
      rw [begin_loc] at hodd
      obtain hfree | heven := hplace
      · simp [ha] at hfree
      · omega
    · rw [begin_loc]
      omega

/-! ### Operation codes outside the map (30_encoding.md R65) -/

theorem opOf_eq_none {t : Opc} {c : BitVec 8} (h : ∀ op, t.code op ≠ c) : t.opOf c = none :=
  List.find?_eq_none.mpr fun op _ => by simpa using h op

/-- Settles O46: such a code tells no length, and the unit alone decodes to the refusal. -/
theorem unknownOperationCodeRefused : Obligations.UnknownOperationCodeRefused := by
  intro s u hic hst h0 hcode
  have hop : s.inst.opc.opOf (operationField u) = none := opOf_eq_none hcode
  refine step_of_fetch_error hic ((fetch_of_not_long hst h0 ?_).trans ?_)
  · simp [lengthOf, hop]
  · simp [instrOf, decode, hop, refusalOf]

/-! ### The instruction in storage is the one that runs -/

theorem length_encode (t : Opc) (i : Instr) : (encode t i).length = i.units := by cases i <;> rfl

/-- Within storage the second unit of an instruction is listed after the first (20_memory.md R42). -/
theorem location_secondUnit (key : Key) (h : s.loc.toNat + 2 ≤ 2 ^ 24) :
    location key s.secondUnit = location key s.loc + 1 := by
  have hnext : s.secondUnit.toNat = s.loc.toNat + 1 := toNat_nextLoc (len := 1) (by omega)
  rw [location, hnext, ← Nat.add_assoc]
  rfl

/-- Two units, or one, that encode an instruction are fetched as that instruction. -/
theorem fetch_of_memRead (ht : s.inst.opc.Injective) (hw : i.wellFormed = true)
    (hread : s.memory.memRead (s.normalKey s.mode.sup) s.loc i.units = some (encode s.inst.opc i))
    (hplace : s.inst.longAligned = true → i.units = 2 → s.loc.toNat % 2 = 0) (hst : m.fetchesStorage) :
    s.fetch m = .ok i := by
  have hdecode : decode s.inst.opc (encode s.inst.opc i) = .ok (i, []) := by
    simpa using decodeOfEncodeIsIdentity s.inst.opc i [] ht hw
  have hinstr : instrOf s.inst.opc (encode s.inst.opc i) = .ok i := by rw [instrOf, hdecode]
  have hroom := Memory.le_of_isSome_memRead (by rw [hread]; rfl)
  rw [Memory.memRead_of_le hroom, Memory.readUnits_eq_some_iff] at hread
  obtain ⟨-, hunits⟩ := hread
  obtain ⟨op, u0, h, hcode, -, henc⟩ := decode_eq_ok hdecode
  have hlen : lengthOf s.inst.opc u0 = some (opLen op) := by
    rw [lengthOf, ← hcode, Opc.opOf_code ht]; rfl
  have hsize := length_encode s.inst.opc i
  rw [List.append_nil] at henc
  rw [henc] at hinstr hunits hsize
  cases hlong : op.isLong with
  | false =>
    simp only [hlong, opLen] at hinstr hunits hsize hlen
    have h0 := hunits 0 (hsize ▸ Nat.one_pos)
    rw [Nat.add_zero] at h0
    exact (fetch_of_not_long hst h0 (by simp [hlen])).trans hinstr
  | true =>
    simp only [hlong, opLen] at hinstr hunits hsize hlen
    have htwo : i.units = 2 := hsize.symm
    rw [htwo] at hunits hroom
    have h0 := hunits 0 (by omega)
    rw [Nat.add_zero] at h0
    refine (fetch_long hst h0 hlen ?_ hroom ?_).trans hinstr
    · rintro ⟨ha, hodd⟩
      have := hplace ha htwo
      omega
    · rw [location_secondUnit _ hroom]
      exact hunits 1 (by omega)

/-- Settles O44: buffers that agree with storage fetch what storage alone fetches, by O49. -/
theorem stepRunsDecodedInstruction : Obligations.StepRunsDecodedInstruction := by
  intro s i hic ht hw hread hplace hanswer
  obtain hst | hcoherent := hanswer
  · exact step_of_fetch hic (fetch_of_memRead (s := s.begin) ht hw hread hplace hst)
  · have hbegin : s.begin.Coherent := hcoherent
    refine step_of_fetch hic ((coherentBuffersAreUnobservable s.begin s.moment hbegin).trans ?_)
    exact fetch_of_memRead (s := s.begin) ht hw hread hplace ⟨rfl, rfl⟩

/-! ### A placed table word (log 14) -/

theorem moment_of_schedule_nil (h : s.schedule = []) : s.moment =
    { asks := s.outsideAsks, takeIc := false, clear := clearNothing, pick0 := none, pick1 := none,
      prefetch := [] } := by
  rw [State.moment, h]

section PlacedWord

variable (nbits w : Nat)

/-- The two units of a table word (30_encoding.md R71): the first in its low bits. -/
def tableUnits : List Unit24 :=
  [BitVec.ofNat 24 (w % 2 ^ nbits), BitVec.ofNat 24 (w % 2 ^ nbits / 2 ^ 24)]

theorem decodeTableWord_eq_some (h : decodeTableWord nbits w = some i) :
    ∃ rest, decode Opc.provisional (tableUnits nbits w) = .ok (i, rest) := by
  rw [decodeTableWord] at h
  split at h
  · next j rest hd => exact ⟨rest, Option.some.inj h ▸ hd⟩
  · cases h

/-- Storage reads as the units of the word placed. -/
theorem readUnits_placeWord (hroom : s.loc.toNat + 2 ≤ 2 ^ 24) :
    (s.placeWord nbits w).readUnits (location (s.normalKey s.mode.sup) s.loc) 2 = some (tableUnits nbits w) := by
  rw [State.placeWord, if_pos hroom, location_secondUnit _ hroom]
  exact Memory.readUnits_putUnits s.memory _ (tableUnits nbits w)

end PlacedWord

/-- The beginning of a block is read as the beginning of its units. -/
theorem Memory.readUnits_of_append {mem : Memory} {l n : Nat} {us vs rest : List Unit24}
    (h : mem.readUnits l n = some us) (hus : vs ++ rest = us) : mem.readUnits l vs.length = some vs := by
  obtain ⟨hsize, hunits⟩ := Memory.readUnits_eq_some_iff.mp h
  subst hus
  rw [List.length_append] at hsize
  refine Memory.readUnits_eq_some_iff.mpr ⟨rfl, fun p hp => ?_⟩
  rw [hunits p (by omega), List.getElem?_append_left hp]

/-- Settles O45: O44 for the storage in which the word is placed; nothing is prefetched. -/
theorem placedWordIsRun : Obligations.PlacedWordIsRun := by
  intro s nbits w i hword hopc haligned hroom
  obtain ⟨rest, hdecode⟩ := decodeTableWord_eq_some nbits w hword
  obtain ⟨hw, hunits⟩ := encodeOfDecodeIsIdentity _ _ _ _ hdecode
  have hmoment := moment_of_schedule_nil (s := s.withFetchWord nbits w) rfl
  have hread := Memory.readUnits_of_append (readUnits_placeWord nbits w hroom) hunits
  have hsize : i.units ≤ 2 := by
    have htotal := congrArg List.length hunits
    rw [List.length_append, length_encode] at htotal
    simp only [tableUnits, List.length_cons, List.length_nil] at htotal
    omega
  rw [length_encode, ← hopc] at hread
  have hstep : step (s.withFetchWord nbits w) =
      exec i ((s.withFetchWord nbits w).begin.prefetch (s.withFetchWord nbits w).moment) := by
    refine stepRunsDecodedInstruction _ i ?_ ?_ hw ?_ ?_ (.inl ?_)
    · rw [State.takesIc, hmoment, Bool.and_false]
    · exact hopc ▸ Opc.provisional_injective
    · exact (Memory.memRead_of_le (show s.loc.toNat + i.units ≤ 2 ^ 24 by omega)).trans hread
    · intro ha
      exact absurd (haligned.symm.trans ha) Bool.false_ne_true
    · rw [hmoment]
      exact ⟨rfl, rfl⟩
  rw [hstep, hmoment]
  rfl

end Sys2Proof.Machine
end

section
/-! PROOFS of the family other, EXITL and the refusals: that EXITL is its three functions, and where PI, an
advance past the top of storage and a missing fixed location are refused. -/

namespace Sys2Proof.Machine

variable {s : State} {flag : Bool} {i j k r : Field5}

/-! ### EXITL (41_exit.md R96, 43_special_branch.md R131) -/

theorem mlxTouchesEba_iff {before after : State} : mlxTouchesEba r before after = true ↔
    (before.bstate = .outstanding .ivib ∨ before.bstate = .outstanding .svr) ∧
      after.readX r ≠ before.readX r := by
  rw [mlxTouchesEba, Bool.and_eq_true, watchedBranch_iff, bne_iff_ne]

/-- While no IVIB or SVR is outstanding, EXIT and EXITL are the exit point, of the state as it is or after MLX. -/
theorem exec_exit_cases {ins : Instr} (hi : isExit ins) (hb : watchedBranch s.bstate = false) :
    exec ins s = exitPoint s ∨ ∃ a b c, exec ins s = exitPoint (s.afterMlx a b c) := by
  obtain ⟨f, a, b, c, rfl | rfl⟩ := hi
  · exact .inl rfl
  · by_cases hskip : s.skip = .skipping ∧ f = true
    · exact .inl (if_pos (by simp [State.ignores, hskip]))
    · exact .inr ⟨a, b, c, execExitl_of_not_watched hskip hb⟩

/-- Settles O17: MLX leaves the branch state, so the exit point goes on or takes its branch as O15 says. -/
theorem exitlIsThreeFunctions : Obligations.ExitlIsThreeFunctions := by
  intro flag i j k s hskip t
  have hexit (hb : watchedBranch s.bstate = false) : exec (.exitl flag i j k) s = exec (.exit false i j k) t :=
    execExitl_of_not_watched hskip hb
  have ⟨hgoesOn, htakes⟩ := exitTakesTheBranch false i j k t
  refine ⟨?_, fun hb hn => ?_, fun hb hp => ?_⟩
  · have hexec : ¬ s.ignores flag = true := by simpa [State.ignores] using hskip
    refine Eq.trans (if_neg hexec) ?_
    cases s.ebaReg with
    | none => rfl
    | some r => exact if_congr mlxTouchesEba_iff rfl rfl
  · exact (hexit (by rw [hb]; rfl)).trans (hgoesOn hb hn)
  · exact (hexit (by rw [hb]; rfl)).trans (htakes hb hp)

/-! ### PI (43_special_branch.md R122, R131) -/

/-- Settles O22: the two tests of PI, in their order. -/
theorem piRefusals : Obligations.PiRefusals := by
  intro flag i j k s hskip
  rw [exec, execPi, unlessSkipped_of_executed hskip, ← watchedBranch_iff]
  exact ⟨fun hb hreg => if_pos ⟨hb, hreg⟩, fun hother hm => (if_neg hother).trans (if_pos hm)⟩

/-! ### The fixed locations (60_exceptions.md R149) -/

/-- Settles O43: the test of the fixed location is the first thing IC and the exit of an SVC do. -/
theorem missingFixedLocationRefused : Obligations.MissingFixedLocationRefused := by
  intro flag i j k s
  refine ⟨fun h0 => if_neg ?_, fun hb h256 => (exitPoint_svc hb).trans (if_neg ?_)⟩
  · exact Bool.eq_false_iff.mp h0
  · exact Bool.eq_false_iff.mp h256

/-! ### Past the top of storage (10_state.md R14) -/

section Top

variable {len : Nat} {op : Op} {h : BitVec 24}

theorem advance_past_top (htop : 2 ^ 24 ≤ s.loc.toNat + len) : advance len s = .refused .pastTopOfStorage :=
  if_neg (hasNext_iff.not.mpr (by omega))

/-- An instruction whose body advances is refused, skipped or not. -/
theorem unlessSkipped_past_top {body : State → Result} (htop : 2 ^ 24 ≤ s.loc.toNat + len)
    (hbody : body s = .refused .pastTopOfStorage) :
    unlessSkipped flag len s body = .refused .pastTopOfStorage := by
  rw [unlessSkipped, advance_past_top htop, hbody, ite_self]

theorem branchAtExit_past_top (htop : 2 ^ 24 ≤ s.loc.toNat + len) (success : Bool) (a : Addr) :
    branchAtExit success a len s = .refused .pastTopOfStorage := by
  rw [branchAtExit, advance_past_top htop, advance_past_top (s := s.makeOutstanding .br a none) htop, ite_self]

/-- So is a special branch, be it outstanding afterwards, in `u`, or suppressed. -/
theorem branch_past_top {u : State} (htop : 2 ^ 24 ≤ s.loc.toNat + len) (hu : u.loc = s.loc) :
    (if s.bstate = .none then advance len u else advance len s) = .refused .pastTopOfStorage := by
  rw [advance_past_top htop, advance_past_top (hu ▸ htop), ite_self]

/-- So is a privileged instruction, whose problem-mode form, from `v`, advances as well. -/
theorem privileged_past_top {v : State} {r : Result} (htop : 2 ^ 24 ≤ s.loc.toNat + len) (hv : v.loc = s.loc)
    (hr : r = .refused .pastTopOfStorage) :
    (if s.mode.sup = .problem then advance len v else r) = .refused .pastTopOfStorage := by
  rw [advance_past_top (hv ▸ htop), hr, ite_self]

theorem privilegeViolation_loc (s : State) : s.privilegeViolation.loc = s.loc := by
  rw [State.privilegeViolation]
  split_ifs <;> rfl

theorem pauseHere_past_top (htop : 2 ^ 24 ≤ s.loc.toNat + 1) : pauseHere s = .refused .pastTopOfStorage := by
  have hnext : ¬ s.hasNext 1 = true := hasNext_iff.not.mpr (by omega)
  rw [pauseHere, advance_past_top htop, if_neg hnext, ite_self]

theorem conditionalBranch_past_top (htop : 2 ^ 24 ≤ s.loc.toNat + 2) (f : CondFn) :
    conditionalBranch f flag i j k h s = .refused .pastTopOfStorage :=
  unlessSkipped_past_top htop (branchAtExit_past_top htop _ _)

theorem skipOn_past_top (htop : 2 ^ 24 ≤ s.loc.toNat + 1) (f : CondFn) :
    skipOn f flag i j s = .refused .pastTopOfStorage :=
  unlessSkipped_past_top htop (advance_past_top (s := { s with skip := _ }) htop)

/-- Every instruction that only ever advances is refused. -/
theorem exec_term_past_top (hop : op ∉ [Op.exit, .exitl, .pi, .scan])
    (htop : 2 ^ 24 ≤ s.loc.toNat + opLen op) :
    exec (op.term flag i j k h) s = .refused .pastTopOfStorage := by
  cases op with
  | band | btaf | bfaf | bor | btof | bfof | beq | bxor => exact conditionalBranch_past_top htop _
  | skand | sktaf | skfaf | skor | sktof | skfof | skeq | skxor => exact skipOn_past_top htop _
  | bu => exact unlessSkipped_past_top htop (branchAtExit_past_top htop _ _)
  | pause => exact unlessSkipped_past_top htop (pauseHere_past_top htop)
  | ivib =>
    rw [Op.term, exec, execIvib]
    exact unlessSkipped_past_top htop (branch_past_top htop rfl)
  | svc =>
    rw [Op.term, exec, execSvc]
    exact unlessSkipped_past_top htop (branch_past_top htop rfl)
  | svr =>
    rw [Op.term, exec, execSvr]
    exact unlessSkipped_past_top htop
      (privileged_past_top htop (privilegeViolation_loc s) (branch_past_top htop rfl))
  | ir =>
    rw [Op.term, exec, execIr]
    exact unlessSkipped_past_top htop
      (privileged_past_top htop (privilegeViolation_loc s) (branch_past_top htop rfl))
  | exit | exitl | pi | scan => simp at hop

theorem exitPoint_past_top (hb : s.bstate = .none) (htop : 2 ^ 24 ≤ s.loc.toNat + 1) :
    exitPoint s = .refused .pastTopOfStorage := (exitPoint_none hb).trans (advance_past_top htop)

theorem isExit_term (hop : isExitOp op = true) : isExit (op.term flag i j k h) := by
  cases op with
  | exit => exact ⟨flag, i, j, k, .inl rfl⟩
  | exitl => exact ⟨flag, i, j, k, .inr rfl⟩
  | _ => cases hop

/-- With none outstanding EXIT and EXITL are refused, for their exit point advances. -/
theorem exec_exit_past_top (hop : isExitOp op = true) (hb : s.bstate = .none)
    (htop : 2 ^ 24 ≤ s.loc.toNat + opLen op) :
    exec (op.term flag i j k h) s = .refused .pastTopOfStorage := by
  have hi : isExit (op.term flag i j k h) := isExit_term hop
  rw [← units_term op flag i j k h, units_of_isExit hi] at htop
  obtain hx | ⟨a, b, c, hx⟩ := exec_exit_cases hi (by rw [hb]; rfl)
  · exact hx.trans (exitPoint_past_top hb htop)
  · exact hx.trans (exitPoint_past_top (s := s.afterMlx a b c) hb htop)

/-- A skipped instruction other than an exit only advances. -/
theorem exec_skipped_past_top (hop : isExitOp op = false) (hf : s.ignores flag = true)
    (htop : 2 ^ 24 ≤ s.loc.toNat + opLen op) :
    exec (op.term flag i j k h) s = .refused .pastTopOfStorage := by
  obtain ⟨body, hbody⟩ := exec_term_eq_unlessSkipped hop i j k h s
  rw [hbody, unlessSkipped_of_ignores hf, advance_past_top htop]

end Top

/-- Settles O42: each of the instructions named would advance. -/
theorem pastTopOfStorageRefused : Obligations.PastTopOfStorageRefused := by
  intro op flag i j k h s htop
  refine ⟨fun hop => exec_term_past_top hop htop, fun hop hb => exec_exit_past_top hop hb htop, ?_, ?_⟩
  · rintro rfl (hf | ⟨hm, hb⟩)
    · exact exec_skipped_past_top rfl hf htop
    · rw [Op.term, exec, execPi]
      refine unlessSkipped_past_top htop ?_
      rw [if_neg (by simp [hb, watchedBranch]), if_neg (by simp [hm])]
      exact pauseHere_past_top (s := s.afterPi i j k) htop
  · rintro rfl (hf | hm)
    · exact exec_skipped_past_top rfl hf htop
    · rw [Op.term, exec, execScan]
      refine unlessSkipped_past_top htop ?_
      exact (if_pos hm).trans (advance_past_top (s := s.raisePv) htop)

end Sys2Proof.Machine
end

section
/-! PROOFS of the family other, privilege, SCAN and the exception bits: what a privileged instruction does in
problem mode, that a problem program is confined, what SCAN does with its block and without it, and which
exception bit each instruction may set. -/

namespace Sys2Proof.Machine

variable {s t : State} {i : Instr}

/-! ### Privileged instructions in problem mode (60_exceptions.md R150) -/

/-- The state with the PV bit as given, at the location that many units on: what D15 leaves of a privileged
instruction. -/
def State.withheld (s : State) (len : Nat) (pv : Bool) : State :=
  { s with loc := s.nextLoc len, exc := { s.exc with pv := pv } }

theorem advance_raisePv {len : Nat} (hn : s.loc.toNat + len < 2 ^ 24) :
    advance len s.raisePv = .next (s.withheld len true) := advance_below (s := s.raisePv) hn

/-- PV of an SVR or IR in problem mode is never cleared, and set where no branch suppresses it (D16). -/
theorem advance_privilegeViolation {len : Nat} (hn : s.loc.toNat + len < 2 ^ 24) :
    ∃ pv, advance len s.privilegeViolation = .next (s.withheld len pv) ∧
      (s.exc.pv = true → pv = true) ∧ (s.bstate = .none → pv = true) := by
  rw [State.privilegeViolation]
  split_ifs with hset
  · exact ⟨true, advance_raisePv hn, fun _ => rfl, fun _ => rfl⟩
  · exact ⟨s.exc.pv, advance_below hn, id, fun hb => absurd (.inl hb) hset⟩

section Problem

variable {flag : Bool} (hskip : ¬ (s.skip = .skipping ∧ flag = true)) (hm : s.mode.sup = .problem)
include hskip hm

theorem execSvr_of_problem (k : Field5) (h : BitVec 24) :
    execSvr flag k h s = advance 2 s.privilegeViolation := by
  rw [execSvr, unlessSkipped_of_executed hskip, if_pos hm]

theorem execIr_of_problem : execIr flag s = advance 1 s.privilegeViolation := by
  rw [execIr, unlessSkipped_of_executed hskip, if_pos hm]

theorem execScan_of_problem (k : Field5) (h : BitVec 24) : execScan flag k h s = advance 2 s.raisePv := by
  rw [execScan, unlessSkipped_of_executed hskip, if_pos hm]

end Problem

/-- Settles O32: an SVR or IR advances from `State.privilegeViolation`, a SCAN from the state with PV set. -/
theorem privilegedInstructionsWithheld : Obligations.PrivilegedInstructionsWithheld := by
  intro op flag i j k h s hop hskip hm hn
  cases op with
  | svr =>
    obtain ⟨pv, hstep, hkept, hset⟩ := advance_privilegeViolation hn
    exact ⟨pv, (execSvr_of_problem hskip hm k h).trans hstep, hkept,
      fun hwhen => hset (hwhen.resolve_right (by simp))⟩
  | ir =>
    obtain ⟨pv, hstep, hkept, hset⟩ := advance_privilegeViolation hn
    exact ⟨pv, (execIr_of_problem hskip hm).trans hstep, hkept,
      fun hwhen => hset (hwhen.resolve_right (by simp))⟩
  | scan =>
    exact ⟨true, (execScan_of_problem hskip hm k h).trans (advance_raisePv hn), fun _ => rfl, fun _ => rfl⟩
  | _ => simp at hop

/-! ### A problem program is confined (R158, R159, R165, R167) -/

theorem returnOutstanding_iff {b : BranchState} :
    returnOutstanding b = true ↔ b = .outstanding .svr ∨ b = .outstanding .ir := by
  rcases b with _ | (_ | _ | _ | _ | _) <;> simp [returnOutstanding]

/-- No exit but that of an IR makes a branch outstanding. -/
theorem ExitEffect.keeps_no_return (he : ExitEffect s t) (hb : returnOutstanding s.bstate = false) :
    returnOutstanding t.bstate = false := by
  cases he with
  | advance => exact hb
  | taken | takenIvib | call | missing => rfl
  | svr hsvr => simp [hsvr, returnOutstanding] at hb
  | ir hir => simp [hir, returnOutstanding] at hb

/-- D15: no instruction of a problem program makes an SVR or IR outstanding. -/
theorem Effect.keeps_no_return (he : Effect s i t) (hm : s.mode.sup = .problem)
    (hb : returnOutstanding s.bstate = false) (hl : ¬ s.loadsMachine i) :
    returnOutstanding t.bstate = false := by
  cases he with
  | advance | skip | privileged => exact hb
  | branch hi hn hnone kind a r hk =>
    exact Bool.eq_false_iff.mpr fun hreturn => not_problem_of_supervisory (hk hreturn) hm
  | irBranch f a b k hn hnone hsup => exact absurd hm (not_problem_of_supervisory hsup)
  | svcBranch | ic | pause | pi | scanMissing => rfl
  | exit hi he => exact he.keeps_no_return hb
  | exitl f a b k hf he => exact he.keeps_no_return hb
  | scanLoad f a b k h block hload => exact absurd hload hl

/-- A SCAN loads the processor in supervisory mode only. -/
theorem not_loadsMachine_of_problem (hm : s.mode.sup = .problem) : ¬ s.loadsMachine i := by
  rintro ⟨-, -, -, -, -, -, -, hsup, -⟩
  exact not_problem_of_supervisory hsup hm

/-- The exit of an SVC is a supervisor call, from the state as it is or after MLX (41_exit.md R96). -/
theorem exec_exit_svc (hi : isExit i) (hb : s.bstate = .outstanding .svc) (hx : exec i s = .next t) :
    t = s.enterSupervisorCall ∨ ∃ a b k, t = (s.afterMlx a b k).enterSupervisorCall := by
  obtain hcase | ⟨a, b, k, hcase⟩ := exec_exit_cases hi (by rw [hb]; rfl)
  · rw [hcase, exitPoint_svc hb, exitSvc_next] at hx
    exact .inl hx.2
  · have hmlx : (s.afterMlx a b k).bstate = .outstanding .svc := hb
    rw [hcase, exitPoint_svc hmlx, exitSvc_next] at hx
    exact .inr ⟨a, b, k, hx.2⟩

/-- Settles O33: what proceeds keeps S9 and S10, and S11 unless an SVC has its EXIT. -/
theorem problemModeIsConfined : Obligations.ProblemModeIsConfined := by
  intro i s t hx hm hsvr hir
  have hl : ¬ s.loadsMachine i := not_loadsMachine_of_problem hm
  have he := exec_effect hx
  obtain hint | hp := he.interrupted_or_proceeds hl
  · exact .inr (.inl hint)
  obtain hs11 | ⟨hi, hb⟩ := hp.s11
  · have hmode : t.mode = s.mode := by rw [State.mode, he.keeps_storage.2, hs11, State.mode]
    have hb : returnOutstanding s.bstate = false :=
      Bool.eq_false_iff.mpr (returnOutstanding_iff.not.mpr (not_or.mpr ⟨hsvr, hir⟩))
    have hreturn := he.keeps_no_return hm hb hl
    exact .inl ⟨hp.s9, hp.s10, hs11, hmode,
      not_or.mp (returnOutstanding_iff.not.mp (Bool.eq_false_iff.mp hreturn))⟩
  · have hsvc : s.bstate = .outstanding .svc := hb.resolve_right (not_or.mpr ⟨hsvr, hir⟩)
    refine .inr (.inr ⟨hi, hsvc, ?_⟩)
    obtain rfl | ⟨a, b, k, rfl⟩ := exec_exit_svc hi hsvc hx
    · exact ⟨rfl, rfl, rfl, mode_enterSupervisorCall⟩
    · exact ⟨rfl, rfl, rfl, mode_enterSupervisorCall⟩

/-! ### SCAN (43_special_branch.md R140 to R146) -/

section Scan

variable {flag : Bool} {a b k : Field5} {h : BitVec 24}

theorem exec_scan_of_executed (hskip : ¬ (s.skip = .skipping ∧ flag = true)) (hm : s.mode.sup = .supervisory) :
    exec (.scan flag a b k h) s = scanIn (s.scanAddress k h) s := by
  rw [exec, execScan, unlessSkipped_of_executed hskip, if_neg (not_problem_of_supervisory hm)]

@[simp] theorem image_loadImage (s : State) (m : MachineImage) : (s.loadImage m).image = m := rfl

/-- A missing block sets MA and is interrupted while enabled (R143). -/
theorem scanIn_missing_enabled {x : Addr}
    (hb : s.memory.memRead (s.alternateKey s.mode.sup) x s.inst.scanUnits.val = none)
    (hm : s.mode.dis = .enabled) (h0 : s.isPresent (s.normalKey .supervisory) interruptionLocation = true) :
    scanIn x s = .next (s.raiseMa.enterInterruption (Config.freeS9 s.tick)) :=
  scanIn_next.mpr (.inr ⟨hb, hm, interrupt_next.mpr ⟨h0, rfl⟩⟩)

/-- While disabled it sets MA and stops the run. -/
theorem scanIn_missing_disabled {x : Addr}
    (hb : s.memory.memRead (s.alternateKey s.mode.sup) x s.inst.scanUnits.val = none)
    (hm : s.mode.dis = .disabled) : scanIn x s = .fault (.missingScanBlock s.loc s.raiseMa) := by
  simp [scanIn, hb, hm]

end Scan

/-- Settles O35: the state that `State.loadImage` leaves, whose image is what ScanLayout gives. -/
theorem scanLoadsTheMachine : Obligations.ScanLoadsTheMachine := by
  intro flag i j k h s block hskip hm hblock
  rw [← hm] at hblock
  exact ⟨_, (exec_scan_of_executed hskip hm).trans (scanIn_next.mpr (.inl ⟨block, hblock, rfl⟩)),
    image_loadImage .., rfl, rfl, rfl, rfl, rfl⟩

/-- Settles O36: the state that an interruption with MA set leaves, field by field, or the fault that carries
the state with MA set. -/
theorem scanOfMissingBlock : Obligations.ScanOfMissingBlock := by
  intro flag i j k h s hskip hm hblock
  rw [← hm] at hblock
  have hexec := exec_scan_of_executed (a := i) (b := j) (k := k) (h := h) hskip hm
  refine ⟨fun henabled h0 => ?_, fun hdisabled => ?_⟩
  · exact ⟨_, hexec.trans (scanIn_missing_enabled hblock henabled h0), mode_enterInterruption _,
      s11IcMode_s11Of .., s11Bsm_s11Of .., s11SvcMode_s11Of .., s11Rest_s11Of .., fun hb => if_neg hb, rfl⟩
  · exact hexec.trans (scanIn_missing_disabled hblock hdisabled)

/-! ### The exception bits (60_exceptions.md R147, R148) -/

/-- The table of R147: which bit an instruction may set, and when. -/
inductive Raises (s : State) (i : Instr) : ExceptionBits → Prop where
  | nothing : Raises s i s.exc
  | mi (hi : isExit i) (hm : s.exitTargetMissing = true) : Raises s i { s.exc with mi := true }
  | ma (f : Bool) (a b k : Field5) (h : BitVec 24) (hi : i = .scan f a b k h)
      (hm : s.mode.sup = .supervisory)
      (hb : s.memory.memRead (s.alternateKey .supervisory) (s.scanAddress k h) s.inst.scanUnits.val = none) :
      Raises s i { s.exc with ma := true }
  | pi (f : Bool) (a b k : Field5) (hi : i = .pi f a b k) (hf : s.ignores f = false) :
      Raises s i { s.exc with pi := true }
  | pv (f : Bool) (a b k : Field5) (h : BitVec 24)
      (hi : i = .svr f a b k h ∨ i = .ir f a b k ∨ i = .scan f a b k h) (hf : s.ignores f = false)
      (hm : s.mode.sup = .problem) : Raises s i { s.exc with pv := true }

/-- The exit point sets MI for a missing target, and nothing else. -/
theorem ExitEffect.raises (he : ExitEffect s t) (hi : isExit i) : Raises s i t.exc := by
  cases he with
  | advance | taken | takenIvib | call | svr | ir => exact .nothing
  | missing hm r a hr => obtain rfl | rfl | ⟨-, -, rfl⟩ | ⟨-, rfl⟩ := hr <;> exact .mi hi hm

/-- MLX has no part in the table's row for the exits. -/
theorem Raises.of_afterMlx {f : Bool} {a b k : Field5} {e : ExceptionBits}
    (h : Raises (s.afterMlx a b k) (.exitl f a b k) e) : Raises s (.exitl f a b k) e := by
  cases h with
  | nothing => exact .nothing
  | mi hi hm => exact .mi hi hm
  | ma f a b k h hi => cases hi
  | pi f a b k hi => cases hi
  | pv f a b k h hi => simp at hi

/-- Every instruction but a SCAN that loads the processor sets exception bits as R147 tables. -/
theorem Effect.raises (he : Effect s i t) (hl : ¬ s.loadsMachine i) : Raises s i t.exc := by
  cases he with
  | advance | branch | irBranch | svcBranch | skip | ic | pause => exact .nothing
  | exit hi he => exact he.raises hi
  | exitl f a b k hf he => exact (he.raises ⟨f, a, b, k, .inr rfl⟩).of_afterMlx
  | pi f a b k hf => exact .pi f a b k rfl hf
  | privileged f a b k h hi hf hm => exact .pv f a b k h hi hf hm
  | scanMissing f a b k h r hf hm hb => exact .ma f a b k h rfl hm hb
  | scanLoad f a b k h block hload => exact absurd hload hl

/-- Settles O40: row by row of the table, one bit is set for its cause and the others are kept. -/
theorem exceptionBitsOnlySet : Obligations.ExceptionBitsOnlySet := by
  intro i s t hx hl
  have hraises := (exec_effect hx).raises hl
  generalize t.exc = e at hraises ⊢
  cases hraises with
  | nothing => simp
  | mi hi hm => exact ⟨by simp, fun _ => ⟨hi, hm⟩, by simp, by simp, by simp⟩
  | ma f a b k h hi hm hb =>
    exact ⟨by simp, by simp, fun _ => ⟨f, a, b, k, h, hi, hm, hb⟩, by simp, by simp⟩
  | pi f a b k hi hf => exact ⟨by simp, by simp, by simp, fun _ => ⟨f, a, b, k, hi, hf⟩, by simp⟩
  | pv f a b k h hi hf hm =>
    exact ⟨by simp, by simp, by simp, by simp, fun _ => ⟨hm, f, a, b, k, h, hi, hf⟩⟩

end Sys2Proof.Machine
end

section
/-! PROOFS of the family other, the fixed words and the state at reset. -/

namespace Sys2Proof.Machine

/-- Settles O4: each word is decoded by evaluation. -/
theorem specWordsDecode : Obligations.SpecWordsDecode := ⟨rfl, rfl, rfl, rfl, rfl, rfl, rfl⟩

/-- The 7-bit code at reset has its round-trip law (log 10). -/
theorem reset_bsmRoundTrip : Installation.reset.BsmRoundTrip := by decide

/-- Every 7-bit value designates a carry that exists at reset (log 11). -/
theorem reset_carriesExist : Installation.reset.CarriesExist := by decide

/-- Settles O52: the laws of the parameters one by one, and no branch is outstanding or saved. -/
theorem resetMeetsInvariantAndPremises : Obligations.ResetMeetsInvariantAndPremises := by
  refine ⟨⟨reset_memory_wf, ?_, ?_⟩, ⟨rfl, rfl, rfl, rfl, ?_⟩,
    ⟨Opc.provisional_injective, reset_bsmRoundTrip, reset_carriesExist⟩, ?_, fun _ => rfl, fun _ => rfl⟩
  · exact fun hsome => nomatch hsome
  · exact fun hsome => nomatch hsome
  · exact fun b hb => nomatch hb
  · exact reset_carriesExist.1

end Sys2Proof.Machine
end
